-- ==== Sys2Proof/Word.lean ====
section
/-! DEFINITION. The word types of the machine (00_scope.md R7, R8, R9; 10_state.md R42). -/

namespace Sys2Proof

/-- A byte, 0..255 (00_scope.md R7): the width of every register, address and memory cell. -/
abbrev Byte := BitVec 8

/-- The 16-bit instruction word `W = hi ++ lo` (00_scope.md R9). -/
abbrev Word := BitVec 16

/-- A bank number, 0..3: the width of the bank prefix `BP` (10_state.md R42). -/
abbrev BankNo := BitVec 2

end Sys2Proof
end

