-- ==== Sys2Proof/Machine/Flags.lean ====
section
/-! DEFINITION. Results and flags of the byte operations (10_state.md R37; 41_arith.md, 42_logic.md,
44_compare.md, 47_incdec.md). Operands are unsigned; results are exact integers narrowed at the end
(41_arith.md R164, 00_scope.md R7). -/

namespace Sys2Proof.Machine

/-- `Z` of a byte result: "Z is 'result equals zero' for every instruction that defines it" (R37). -/
def zeroFlag (r : Byte) : Bool := decide (r = 0)

/-! ### ADD (41_arith.md R160) -/

def addValue (x y : Byte) : Byte := .ofNat 8 (x.toNat + y.toNat)

/-- `C` of ADD: the exact sum exceeds 255. -/
def addCarry (x y : Byte) : Bool := decide (x.toNat + y.toNat > 255)

/-! ### SUB and CMP (41_arith.md R161, 44_compare.md R200, R201) -/

/-- The exact difference, -255..255. -/
def difference (x y : Byte) : Int := (x.toNat : Int) - (y.toNat : Int)

def subValue (x y : Byte) : Byte := .ofInt 8 (difference x y)

/-- `Z` of SUB and CMP: "`d mod 256 == 0` exactly when `d == 0`" (R161). -/
def subZero (x y : Byte) : Bool := decide (difference x y = 0)

/-- `C` of SUB and CMP: a borrow occurred. -/
def subBorrow (x y : Byte) : Bool := decide (difference x y < 0)

/-! ### MUL (41_arith.md R162) -/

/-- The exact 16-bit product. -/
def product (x y : Byte) : Nat := x.toNat * y.toNat

/-- `p[15:8]`. -/
def productHigh (p : Nat) : Byte := .ofNat 8 (p / 256)

/-- `p[7:0]`. -/
def productLow (p : Nat) : Byte := .ofNat 8 p

/-- `Z` of MUL looks at the full product. -/
def productZero (p : Nat) : Bool := decide (p = 0)

/-! ### DIV (41_arith.md R163, R165) -/

def quotient (n m : Byte) : Byte := .ofNat 8 (n.toNat / m.toNat)

def remainder (n m : Byte) : Byte := .ofNat 8 (n.toNat - m.toNat * (n.toNat / m.toNat))

/-! ### NOT, shifts and rotates (42_logic.md R173 to R177): one position, not through `C` -/

def notValue (x : Byte) : Byte := .ofNat 8 (255 - x.toNat)

/-- Bit `i` of a byte as a number, `v[i]`. -/
def bitValue (v : Byte) (i : Nat) : Nat := if v.getLsbD i then 1 else 0

def shlValue (v : Byte) : Byte := .ofNat 8 (v.toNat * 2)

def shrValue (v : Byte) : Byte := .ofNat 8 (v.toNat / 2)

def rolValue (v : Byte) : Byte := .ofNat 8 (v.toNat * 2 % 256 + bitValue v 7)

def rorValue (v : Byte) : Byte := .ofNat 8 (v.toNat / 2 + 128 * bitValue v 0)

/-- `C` of SHL and ROL: the old bit 7. -/
def outLeft (v : Byte) : Bool := v.getLsbD 7

/-- `C` of SHR and ROR: the old bit 0. -/
def outRight (v : Byte) : Bool := v.getLsbD 0

/-! ### INC and DEC (47_incdec.md R240, R241) -/

def incValue (x : Byte) : Byte := .ofNat 8 (x.toNat + 1)

def decValue (x : Byte) : Byte := .ofInt 8 ((x.toNat : Int) - 1)

end Sys2Proof.Machine
end

