-- ==== Sys2Proof/Config.lean ====
section
/-! DEFINITION. What an implementation fixes (00_scope.md R6) and the free values the spec leaves to the
host or leaves unspecified. The VALUES the model takes for the parameters are `Sys2Proof.Machine.config`
(Machine/Params.lean). -/

namespace Sys2Proof

/-- What a reserved encoding does (00_scope.md R6 `ReservedPolicy`, 30_encoding.md R127): the spec's
default is a no-operation; 90_conflicts.md C11 names refusing as the other choice of a model. -/
inductive ReservedPolicy where
  | nop
  | refuse
deriving DecidableEq, Repr

/-- The implementation parameters of 00_scope.md R6. -/
structure Config where
  /-- `IO_DISP_BASE`: the first address of the display buffer. -/
  ioDispBase : Byte
  /-- `DISP_LEN`: the number of display bytes. -/
  dispLen : Nat
  /-- `IO_BTN`: the address of the button bitmask. -/
  ioBtn : Byte
  /-- `IO_HOUR`, `IO_MIN`, `IO_SEC`: the addresses of the clock registers. -/
  ioHour : Byte
  ioMin : Byte
  ioSec : Byte
  /-- `IO_BANK`: the address of the current-bank pseudo-register. -/
  ioBank : Byte
  /-- `PROG_MAX`: the most bytes `loadProgram` writes. -/
  progMax : Nat
  /-- `ReservedPolicy`: what a reserved encoding does. -/
  reservedPolicy : ReservedPolicy
deriving DecidableEq, Repr

/-- The three bytes `HostClock()` returns (00_scope.md R17). -/
structure ClockBytes where
  hour : Byte
  minute : Byte
  second : Byte
deriving DecidableEq, Repr, Inhabited

/-- FREE VALUE: the answer of the k-th call of `HostClock()` (60_exceptions.md R322; log 18). "The core does
not constrain or convert the bytes." -/
opaque Config.hostClock : Nat → ClockBytes

/-- FREE VALUE: byte `i` of `STACK` after the k-th warm reset (70_reset_and_hazards.md R341; log 21). -/
opaque Config.resetStackByte : Nat → Nat → Byte

/-- FREE VALUE: byte `i` of `VRAM` after the k-th warm reset (70_reset_and_hazards.md R341; log 21). -/
opaque Config.resetVramByte : Nat → Nat → Byte

/-- FREE VALUE: byte `i` of `FB` after the k-th warm reset (70_reset_and_hazards.md R341; log 21). -/
opaque Config.resetFbByte : Nat → Nat → Byte

/-- FREE VALUE: byte `i` of `DISP` after the k-th warm reset (70_reset_and_hazards.md R341; log 21). -/
opaque Config.resetDispByte : Nat → Nat → Byte

end Sys2Proof
end

