-- ==== Sys2Proof/Machine/Params.lean ====
section
/-! DEFINITION. The parameter values the model takes: the defaults of 00_scope.md R6. -/

namespace Sys2Proof.Machine

/-- The defaults of 00_scope.md R6 (decisions D28, D34, D15; logs 16, 22, 4). -/
def config : Config where
  ioDispBase := 0xF0
  dispLen := 8
  ioBtn := 0xF8
  ioHour := 0xF9
  ioMin := 0xFA
  ioSec := 0xFB
  ioBank := 0xFC
  progMax := 254
  reservedPolicy := .nop

end Sys2Proof.Machine
end

