-- ==== Sys2Proof/Syntax.lean ====
section
/-! DEFINITION. The instruction set: one constructor per row of spec/opcode_table.json, in the table's order
(30_encoding.md R121). Don't-care bits (R125) are no part of an instruction. -/

namespace Sys2Proof

/-- The four general registers (10_state.md R30). -/
inductive Reg where
  | r0 | r1 | r2 | r3
deriving DecidableEq, Repr

/-- The 47 instructions of 30_encoding.md R121. -/
inductive Instr where
  -- system group, `op = 0x0` (49_system.md)
  | nop
  | retSys
  | flip
  | clrf
  | clrv
  | plotf
  | plotv
  | bcpy
  | vpeek
  | vpoke
  | hlt
  -- move (40_move.md)
  | movRR (rd rs : Reg)
  | movRI (rd : Reg) (imm : Byte)
  -- arithmetic (41_arith.md)
  | add (rd rs : Reg)
  | sub (rd rs : Reg)
  | mul (rd rs : Reg)
  | div (rd rs : Reg)
  -- bitwise and unary (42_logic.md)
  | andRR (rd rs : Reg)
  | orRR (rd rs : Reg)
  | xorRR (rd rs : Reg)
  | not (rd : Reg)
  | shl (rd : Reg)
  | shr (rd : Reg)
  | rol (rd : Reg)
  | ror (rd : Reg)
  | andRI (rd : Reg) (imm : Byte)
  | orRI (rd : Reg) (imm : Byte)
  | xorRI (rd : Reg) (imm : Byte)
  -- load and store (43_loadstore.md)
  | ldInd (rd ra : Reg)
  | ldAbs (rd : Reg) (addr : Byte)
  | stInd (rd ra : Reg)
  | stAbs (rd : Reg) (addr : Byte)
  -- compare (44_compare.md)
  | cmpRR (rd rs : Reg)
  | cmpRI (rd : Reg) (imm : Byte)
  -- jumps (45_jumps.md)
  | jmp (addr : Byte)
  | jz (addr : Byte)
  | jnz (addr : Byte)
  | jc (addr : Byte)
  -- call, return, stack (46_call_stack.md)
  | call (addr : Byte)
  | ret
  | push (rd : Reg)
  | pop (rd : Reg)
  | pusha
  | popa
  -- increment, decrement (47_incdec.md)
  | inc (rd : Reg)
  | dec (rd : Reg)
  -- bank select (48_bank.md)
  | bank (k : BankNo)
deriving DecidableEq, Repr

end Sys2Proof
end

