-- ==== Sys2Proof/Decode.lean ====
section
/-! DEFINITION. The decoder of 30_encoding.md R130, total on all words, the encoder, and the opcode table of
R121 as data. -/

namespace Sys2Proof

/-! ### The fields of the instruction word (30_encoding.md R113) -/

/-- `op = W[15:12]`. -/
def fieldOp (w : Word) : BitVec 4 := w.extractLsb' 12 4

/-- `a = W[11:10]`. -/
def fieldA (w : Word) : BitVec 2 := w.extractLsb' 10 2

/-- `b = W[9:8]`. -/
def fieldB (w : Word) : BitVec 2 := w.extractLsb' 8 2

/-- `lo = W[7:0]`. -/
def fieldLo (w : Word) : Byte := w.extractLsb' 0 8

/-- `lo[1:0] = W[1:0]`: the address register of format MI, the bank of BANK (R114, R117, R118). -/
def loPair (lo : Byte) : BitVec 2 := lo.extractLsb' 0 2

/-- The register a 2-bit index names: R0 to R3 are 0 to 3 (10_state.md R30, 30_encoding.md R124). -/
def Reg.ofBits (b : BitVec 2) : Reg :=
  match b.toNat with
  | 0 => .r0
  | 1 => .r1
  | 2 => .r2
  | _ => .r3

/-- The 2-bit index of a register. -/
def Reg.toBits : Reg → BitVec 2
  | .r0 => 0
  | .r1 => 1
  | .r2 => 2
  | .r3 => 3

/-- `Rd = W[11:10]` (R115). -/
def regA (w : Word) : Reg := .ofBits (fieldA w)

/-- `Rs = W[9:8]` (R115). -/
def regB (w : Word) : Reg := .ofBits (fieldB w)

/-- `Ra = W[1:0]` (R117). -/
def regLo (w : Word) : Reg := .ofBits (loPair (fieldLo w))

/-- `bank = W[1:0]` (R118). -/
def fieldBank (w : Word) : BankNo := loPair (fieldLo w)

/-! ### Decoding -/

/-- The five groups of reserved encodings, 30_encoding.md R126 (a) to (e). -/
inductive Reserved where
  | sys
  | arith
  | logic
  | logicImm
  | stack
deriving DecidableEq, Repr

/-- What a word decodes to: an instruction, or a rejection that names the reserved group. -/
inductive Decoded where
  | instr (i : Instr)
  | reserved (g : Reserved)
deriving DecidableEq, Repr

/-- `op = 0x0`: the system group, selected by the whole `lo` byte (R123). -/
def decodeSys (lo : Byte) : Decoded :=
  match lo.toNat with
  | 0x00 => .instr .nop
  | 0x01 => .instr .retSys
  | 0x02 => .instr .flip
  | 0x03 => .instr .clrf
  | 0x04 => .instr .clrv
  | 0x05 => .instr .plotf
  | 0x06 => .instr .plotv
  | 0x07 => .instr .bcpy
  | 0x08 => .instr .vpeek
  | 0x09 => .instr .vpoke
  | 0x0A => .instr .hlt
  | _ => .reserved .sys

/-- `op = 0x3`: the arithmetic group, selected by `lo` (R123). -/
def decodeArith (rd rs : Reg) (lo : Byte) : Decoded :=
  match lo.toNat with
  | 0x00 => .instr (.add rd rs)
  | 0x01 => .instr (.sub rd rs)
  | 0x02 => .instr (.mul rd rs)
  | 0x03 => .instr (.div rd rs)
  | _ => .reserved .arith

/-- `op = 0x4`: the logic group, selected by `lo` (R123). -/
def decodeLogic (rd rs : Reg) (lo : Byte) : Decoded :=
  match lo.toNat with
  | 0x00 => .instr (.andRR rd rs)
  | 0x01 => .instr (.orRR rd rs)
  | 0x02 => .instr (.xorRR rd rs)
  | 0x03 => .instr (.not rd)
  | 0x04 => .instr (.shl rd)
  | 0x05 => .instr (.shr rd)
  | 0x06 => .instr (.rol rd)
  | 0x07 => .instr (.ror rd)
  | _ => .reserved .logic

/-- `op = 0x5`: the logic-immediate group, selected by `W[9:8]` (R123, 42_logic.md R181). -/
def decodeLogicImm (rd : Reg) (b : BitVec 2) (imm : Byte) : Decoded :=
  match b.toNat with
  | 0 => .instr (.andRI rd imm)
  | 1 => .instr (.orRI rd imm)
  | 2 => .instr (.xorRI rd imm)
  | _ => .reserved .logicImm

/-- `op = 0x6`: loads and stores, selected by `W[9:8]` (R117, R123). -/
def decodeMem (rd : Reg) (b : BitVec 2) (lo : Byte) : Decoded :=
  match b.toNat with
  | 0 => .instr (.ldInd rd (.ofBits (loPair lo)))
  | 1 => .instr (.ldAbs rd lo)
  | 2 => .instr (.stInd rd (.ofBits (loPair lo)))
  | _ => .instr (.stAbs rd lo)

/-- `op = 0xD`: the stack group, selected by `lo` (R123). -/
def decodeStack (rd : Reg) (lo : Byte) : Decoded :=
  match lo.toNat with
  | 0x00 => .instr (.push rd)
  | 0x01 => .instr (.pop rd)
  | 0x02 => .instr .pusha
  | 0x03 => .instr .popa
  | _ => .reserved .stack

/-- The decoding algorithm of R130 on the fields; `c = W[8]` is bit 0 of `b`. The last case is `op = 0xF`. -/
def decodeFields (op : BitVec 4) (a b : BitVec 2) (lo : Byte) : Decoded :=
  let rd := Reg.ofBits a
  let rs := Reg.ofBits b
  let c := b.getLsbD 0
  match op.toNat with
  | 0x0 => decodeSys lo
  | 0x1 => .instr (.movRR rd rs)
  | 0x2 => .instr (.movRI rd lo)
  | 0x3 => decodeArith rd rs lo
  | 0x4 => decodeLogic rd rs lo
  | 0x5 => decodeLogicImm rd b lo
  | 0x6 => decodeMem rd b lo
  | 0x7 => .instr (.cmpRR rd rs)
  | 0x8 => .instr (.cmpRI rd lo)
  | 0x9 => .instr (.jmp lo)
  | 0xA => .instr (if c then .jnz lo else .jz lo)
  | 0xB => .instr (.jc lo)
  | 0xC => .instr (if c then .ret else .call lo)
  | 0xD => decodeStack rd lo
  | 0xE => .instr (if c then .dec rd else .inc rd)
  | _ => .instr (.bank (loPair lo))

/-- `Decode(W)` of R130. -/
def decodeWord (w : Word) : Decoded :=
  decodeFields (fieldOp w) (fieldA w) (fieldB w) (fieldLo w)

/-- Decoding the two fetched bytes: `W = hi ++ lo` (00_scope.md R9, 20_memory.md R70). -/
def decode (hi lo : Byte) : Decoded := decodeWord (hi ++ lo)

/-- The two bytes, first one first, of an instruction numbered as spec/opcode_table.json numbers it: a 16-bit
word `W` whose `hi` stands at the lower address (20_memory.md R70). Bits at and above `nbits` are 0. -/
def tableBytes (nbits w : Nat) : Byte × Byte :=
  let v := w % 2 ^ nbits
  (BitVec.ofNat 8 (v / 256), BitVec.ofNat 8 v)

/-- The instruction the decoder reads from a word of the opcode table; none where it rejects. -/
def decodeTableWord (nbits w : Nat) : Option Instr :=
  match decode (tableBytes nbits w).1 (tableBytes nbits w).2 with
  | .instr i => some i
  | .reserved _ => none

/-! ### Encoding -/

/-- The word with these fields (R113). -/
def pack (op : BitVec 4) (a b : BitVec 2) (lo : Byte) : Word := op ++ a ++ b ++ lo

/-- The canonical encoding of an instruction (R121, every don't-care bit 0 as R125 has it). -/
def encode : Instr → Word
  | .nop => pack 0x0 0 0 0x00
  | .retSys => pack 0x0 0 0 0x01
  | .flip => pack 0x0 0 0 0x02
  | .clrf => pack 0x0 0 0 0x03
  | .clrv => pack 0x0 0 0 0x04
  | .plotf => pack 0x0 0 0 0x05
  | .plotv => pack 0x0 0 0 0x06
  | .bcpy => pack 0x0 0 0 0x07
  | .vpeek => pack 0x0 0 0 0x08
  | .vpoke => pack 0x0 0 0 0x09
  | .hlt => pack 0x0 0 0 0x0A
  | .movRR rd rs => pack 0x1 rd.toBits rs.toBits 0x00
  | .movRI rd imm => pack 0x2 rd.toBits 0 imm
  | .add rd rs => pack 0x3 rd.toBits rs.toBits 0x00
  | .sub rd rs => pack 0x3 rd.toBits rs.toBits 0x01
  | .mul rd rs => pack 0x3 rd.toBits rs.toBits 0x02
  | .div rd rs => pack 0x3 rd.toBits rs.toBits 0x03
  | .andRR rd rs => pack 0x4 rd.toBits rs.toBits 0x00
  | .orRR rd rs => pack 0x4 rd.toBits rs.toBits 0x01
  | .xorRR rd rs => pack 0x4 rd.toBits rs.toBits 0x02
  | .not rd => pack 0x4 rd.toBits 0 0x03
  | .shl rd => pack 0x4 rd.toBits 0 0x04
  | .shr rd => pack 0x4 rd.toBits 0 0x05
  | .rol rd => pack 0x4 rd.toBits 0 0x06
  | .ror rd => pack 0x4 rd.toBits 0 0x07
  | .andRI rd imm => pack 0x5 rd.toBits 0 imm
  | .orRI rd imm => pack 0x5 rd.toBits 1 imm
  | .xorRI rd imm => pack 0x5 rd.toBits 2 imm
  | .ldInd rd ra => pack 0x6 rd.toBits 0 (ra.toBits.setWidth 8)
  | .ldAbs rd addr => pack 0x6 rd.toBits 1 addr
  | .stInd rd ra => pack 0x6 rd.toBits 2 (ra.toBits.setWidth 8)
  | .stAbs rd addr => pack 0x6 rd.toBits 3 addr
  | .cmpRR rd rs => pack 0x7 rd.toBits rs.toBits 0x00
  | .cmpRI rd imm => pack 0x8 rd.toBits 0 imm
  | .jmp addr => pack 0x9 0 0 addr
  | .jz addr => pack 0xA 0 0 addr
  | .jnz addr => pack 0xA 0 1 addr
  | .jc addr => pack 0xB 0 0 addr
  | .call addr => pack 0xC 0 0 addr
  | .ret => pack 0xC 0 1 0x00
  | .push rd => pack 0xD rd.toBits 0 0x00
  | .pop rd => pack 0xD rd.toBits 0 0x01
  | .pusha => pack 0xD 0 0 0x02
  | .popa => pack 0xD 0 0 0x03
  | .inc rd => pack 0xE rd.toBits 0 0x00
  | .dec rd => pack 0xE rd.toBits 1 0x00
  | .bank k => pack 0xF 0 0 (k.setWidth 8)

/-- The two bytes of an instruction in memory order, `hi` first (20_memory.md R70). -/
def encodeBytes (i : Instr) : List Byte := [(encode i).extractLsb' 8 8, (encode i).extractLsb' 0 8]

/-! ### The opcode table as data (R121): a second statement of the decoder -/

/-- One row of R121: a word is the row's instruction when `W & mask == pattern`; `build` reads its operands. -/
structure Row where
  mnemonic : String
  mask : Word
  pattern : Word
  dontCare : Word
  build : Word → Instr

/-- A row, written in the order of the table's columns. -/
def row (mnemonic : String) (mask pattern dontCare : Word) (build : Word → Instr) : Row :=
  ⟨mnemonic, mask, pattern, dontCare, build⟩

/-- The word is this row's instruction: `W & mask == match` (R121). -/
abbrev Row.matches (r : Row) (w : Word) : Prop := w &&& r.mask = r.pattern

/-- Rows 1 to 11 of 30_encoding.md R121. -/
def tableSystem : List Row := [
  row "NOP" 0xF0FF 0x0000 0x0F00 (fun _ => .nop),
  row "RET__system_alias" 0xF0FF 0x0001 0x0F00 (fun _ => .retSys),
  row "FLIP" 0xF0FF 0x0002 0x0F00 (fun _ => .flip),
  row "CLRF" 0xF0FF 0x0003 0x0F00 (fun _ => .clrf),
  row "CLRV" 0xF0FF 0x0004 0x0F00 (fun _ => .clrv),
  row "PLOTF" 0xF0FF 0x0005 0x0F00 (fun _ => .plotf),
  row "PLOTV" 0xF0FF 0x0006 0x0F00 (fun _ => .plotv),
  row "BCPY" 0xF0FF 0x0007 0x0F00 (fun _ => .bcpy),
  row "VPEEK" 0xF0FF 0x0008 0x0F00 (fun _ => .vpeek),
  row "VPOKE" 0xF0FF 0x0009 0x0F00 (fun _ => .vpoke),
  row "HLT" 0xF0FF 0x000A 0x0F00 (fun _ => .hlt) ]

/-- Rows 12 to 13 of 30_encoding.md R121. -/
def tableMove : List Row := [
  row "MOV_Rd__Rs" 0xF000 0x1000 0x00FF (fun w => .movRR (regA w) (regB w)),
  row "MOV_Rd___imm" 0xF000 0x2000 0x0300 (fun w => .movRI (regA w) (fieldLo w)) ]

/-- Rows 14 to 17 of 30_encoding.md R121. -/
def tableArith : List Row := [
  row "ADD_Rd__Rs" 0xF0FF 0x3000 0x0000 (fun w => .add (regA w) (regB w)),
  row "SUB_Rd__Rs" 0xF0FF 0x3001 0x0000 (fun w => .sub (regA w) (regB w)),
  row "MUL_Rd__Rs" 0xF0FF 0x3002 0x0000 (fun w => .mul (regA w) (regB w)),
  row "DIV_Rd__Rs" 0xF0FF 0x3003 0x0000 (fun w => .div (regA w) (regB w)) ]

/-- Rows 18 to 28 of 30_encoding.md R121. -/
def tableLogic : List Row := [
  row "AND_Rd__Rs" 0xF0FF 0x4000 0x0000 (fun w => .andRR (regA w) (regB w)),
  row "OR_Rd__Rs" 0xF0FF 0x4001 0x0000 (fun w => .orRR (regA w) (regB w)),
  row "XOR_Rd__Rs" 0xF0FF 0x4002 0x0000 (fun w => .xorRR (regA w) (regB w)),
  row "NOT_Rd" 0xF0FF 0x4003 0x0300 (fun w => .not (regA w)),
  row "SHL_Rd" 0xF0FF 0x4004 0x0300 (fun w => .shl (regA w)),
  row "SHR_Rd" 0xF0FF 0x4005 0x0300 (fun w => .shr (regA w)),
  row "ROL_Rd" 0xF0FF 0x4006 0x0300 (fun w => .rol (regA w)),
  row "ROR_Rd" 0xF0FF 0x4007 0x0300 (fun w => .ror (regA w)),
  row "AND_Rd___imm" 0xF300 0x5000 0x0000 (fun w => .andRI (regA w) (fieldLo w)),
  row "OR_Rd___imm" 0xF300 0x5100 0x0000 (fun w => .orRI (regA w) (fieldLo w)),
  row "XOR_Rd___imm" 0xF300 0x5200 0x0000 (fun w => .xorRI (regA w) (fieldLo w)) ]

/-- Rows 29 to 32 of 30_encoding.md R121. -/
def tableLoadStore : List Row := [
  row "LD_Rd___Ra" 0xF300 0x6000 0x00FC (fun w => .ldInd (regA w) (regLo w)),
  row "LD_Rd___addr" 0xF300 0x6100 0x0000 (fun w => .ldAbs (regA w) (fieldLo w)),
  row "ST_Rd___Ra" 0xF300 0x6200 0x00FC (fun w => .stInd (regA w) (regLo w)),
  row "ST_Rd___addr" 0xF300 0x6300 0x0000 (fun w => .stAbs (regA w) (fieldLo w)) ]

/-- Rows 33 to 40 of 30_encoding.md R121. -/
def tableFlow : List Row := [
  row "CMP_Rd__Rs" 0xF000 0x7000 0x00FF (fun w => .cmpRR (regA w) (regB w)),
  row "CMP_Rd___imm" 0xF000 0x8000 0x0300 (fun w => .cmpRI (regA w) (fieldLo w)),
  row "JMP_addr" 0xF000 0x9000 0x0F00 (fun w => .jmp (fieldLo w)),
  row "JZ_addr" 0xF100 0xA000 0x0E00 (fun w => .jz (fieldLo w)),
  row "JNZ_addr" 0xF100 0xA100 0x0E00 (fun w => .jnz (fieldLo w)),
  row "JC_addr" 0xF000 0xB000 0x0F00 (fun w => .jc (fieldLo w)),
  row "CALL_addr" 0xF100 0xC000 0x0E00 (fun w => .call (fieldLo w)),
  row "RET" 0xF100 0xC100 0x0EFF (fun _ => .ret) ]

/-- Rows 41 to 47 of 30_encoding.md R121. -/
def tableRest : List Row := [
  row "PUSH_Rd" 0xF0FF 0xD000 0x0300 (fun w => .push (regA w)),
  row "POP_Rd" 0xF0FF 0xD001 0x0300 (fun w => .pop (regA w)),
  row "PUSHA" 0xF0FF 0xD002 0x0F00 (fun _ => .pusha),
  row "POPA" 0xF0FF 0xD003 0x0F00 (fun _ => .popa),
  row "INC_Rd" 0xF100 0xE000 0x02FF (fun w => .inc (regA w)),
  row "DEC_Rd" 0xF100 0xE100 0x02FF (fun w => .dec (regA w)),
  row "BANK_k" 0xF000 0xF000 0x0FFC (fun w => .bank (fieldBank w)) ]

/-- The complete list of 30_encoding.md R121 (spec/opcode_table.json), in its order. -/
def opcodeTable : List Row :=
  tableSystem ++ tableMove ++ tableArith ++ tableLogic ++ tableLoadStore ++ tableFlow ++ tableRest

end Sys2Proof
end

