-- ==== Sys2Proof/Machine/State.lean ====
section
/-! DEFINITION. The machine's state (10_state.md), why a step can stop, and the machine right after power-on. -/

namespace Sys2Proof.Machine

/-- A memory: the bytes that are not 0, as (address, byte) pairs with addresses strictly rising. An address
that is not listed reads as 0, the content a cold start gives every memory (70_reset_and_hazards.md R340). -/
abbrev Memory := List Host.Cell

/-- The addresses rise strictly from `lo`, stay below `hi`, and no entry is 0. -/
def Memory.wfFrom (lo hi : Nat) : Memory → Bool
  | [] => true
  | (a, v) :: m => decide (lo ≤ a) && decide (a < hi) && decide (v ≠ 0) && wfFrom (a + 1) hi m

/-- The canonical form of a memory of `size` bytes: equal memories are equal lists. -/
def Memory.wf (size : Nat) (m : Memory) : Bool := m.wfFrom 0 size

/-- The four general registers (10_state.md R30). -/
structure Regs where
  r0 : Byte
  r1 : Byte
  r2 : Byte
  r3 : Byte
deriving DecidableEq, Repr

/-- All the state 10_state.md gives the machine, and two counters of the model's own. -/
structure State where
  /-- `x[0..3]` (R30). -/
  regs : Regs
  /-- The program counter, a byte address in bank 0 (R32). -/
  pc : Byte
  /-- The stack pointer, an index into `STACK` (R35). -/
  sp : Byte
  /-- The flags `Z`, `N`, `C` (R36). -/
  z : Bool
  n : Bool
  c : Bool
  /-- `BP`, the pending bank prefix (R42). -/
  bp : BankNo
  /-- `HALT` (R43). -/
  halt : Bool
  /-- `MEM`, 1024 bytes: byte `a` of bank `k` at index `256*k + a` (R44). -/
  mem : Memory
  /-- `STACK`, 256 bytes (R45). -/
  stack : Memory
  /-- `VRAM`, 128 bytes (R46). -/
  vram : Memory
  /-- `FB`, the framebuffer, 128 bytes (R46). -/
  fb : Memory
  /-- `DISP`, the display buffer (R48). -/
  disp : Memory
  /-- `BTN`, the button bitmask (R49). -/
  btn : Byte
  /-- `IMAGE`, the reset snapshot, 1024 bytes (R50). -/
  image : Memory
  /-- The MODEL's own (log 18): how many times `HostClock()` has been sampled. -/
  clockReads : Nat
  /-- The MODEL's own (log 21): how many warm resets there have been. -/
  resets : Nat
deriving DecidableEq, Repr

/-- Why the machine stops with a fault: NOTHING does. "the machine has no fault/exception mechanism"
(60_exceptions.md R300), so the type has no constructor. Safe: the spec names no fault. -/
inductive Fault where
deriving DecidableEq, Repr

/-- Why a step has no meaning. -/
inductive Refusal where
  /-- Raised by `exec` for an instruction whose meaning is not written (none is left). Safe. -/
  | notModelled (mnemonic : String)
  /-- Raised by `onReserved` for a reserved encoding, only where `config.reservedPolicy` is `refuse`
  (90_conflicts.md C11); the model's policy is the no-operation of 30_encoding.md R127. Safe. -/
  | reservedEncoding (g : Reserved)
deriving DecidableEq, Repr

/-- The machine right after power-on: the cold start of an empty program (70_reset_and_hazards.md R342,
10_state.md R58). -/
def State.reset : State where
  regs := ⟨0, 0, 0, 0⟩
  pc := 0
  sp := 0xFF
  z := false
  n := false
  c := false
  bp := 0
  halt := false
  mem := []
  stack := []
  vram := []
  fb := []
  disp := []
  btn := 0
  image := []
  clockReads := 0
  resets := 0

end Sys2Proof.Machine
end

