-- ==== Sys2Proof/Machine/Ops.lean ====
section
/-! DEFINITION. The named operations over registers, memories and the stack. There is no operation that takes
an exception or returns from one: the machine has none (60_exceptions.md R300, R304, R305). -/

namespace Sys2Proof.Machine

/-! ### Registers, flags and control bits (00_scope.md R11) -/

/-- `x[i]`. -/
def Regs.get (g : Regs) : Reg → Byte
  | .r0 => g.r0
  | .r1 => g.r1
  | .r2 => g.r2
  | .r3 => g.r3

/-- `x[i] <- v`. -/
def Regs.set (g : Regs) (r : Reg) (v : Byte) : Regs :=
  match r with
  | .r0 => { g with r0 := v }
  | .r1 => { g with r1 := v }
  | .r2 => { g with r2 := v }
  | .r3 => { g with r3 := v }

/-- `x[i]` of a state. No register is hardwired (10_state.md R30). -/
def State.reg (s : State) (r : Reg) : Byte := s.regs.get r

/-- `x[i] <- v` on a state. -/
def State.setReg (s : State) (r : Reg) (v : Byte) : State := { s with regs := s.regs.set r v }

/-- `pc <- t`. -/
def State.setPc (s : State) (t : Byte) : State := { s with pc := t }

/-- `Z <- b`. -/
def State.setZ (s : State) (b : Bool) : State := { s with z := b }

/-- `C <- b`. -/
def State.setC (s : State) (b : Bool) : State := { s with c := b }

/-- `BP <- k`. -/
def State.setBp (s : State) (k : BankNo) : State := { s with bp := k }

/-- `HALT <- 1`. -/
def State.setHalt (s : State) : State := { s with halt := true }

def State.setMem (s : State) (m : Memory) : State := { s with mem := m }

def State.setDisp (s : State) (m : Memory) : State := { s with disp := m }

def State.setVram (s : State) (m : Memory) : State := { s with vram := m }

def State.setFb (s : State) (m : Memory) : State := { s with fb := m }

/-! ### One memory (log 33) -/

/-- Reading one byte: an address that is not listed reads as 0. -/
def Memory.read : Memory → Nat → Byte
  | [], _ => 0
  | (k, v) :: m, a => if a = k then v else read m a

/-- Putting a non-zero byte in its place in the order. -/
def Memory.insert : Memory → Nat → Byte → Memory
  | [], a, v => [(a, v)]
  | (k, w) :: m, a, v =>
    if a < k then (a, v) :: (k, w) :: m
    else if a = k then (a, v) :: m
    else (k, w) :: insert m a v

/-- Removing an address from the list. -/
def Memory.erase : Memory → Nat → Memory
  | [], _ => []
  | (k, w) :: m, a => if a = k then erase m a else (k, w) :: erase m a

/-- Writing one byte; writing 0 removes the entry. -/
def Memory.write (m : Memory) (a : Nat) (v : Byte) : Memory :=
  if v = 0 then m.erase a else m.insert a v

/-- Writing a sequence of bytes from an address on, ascending. -/
def Memory.load : Memory → Nat → List Byte → Memory
  | m, _, [] => m
  | m, a, v :: vs => load (m.write a v) (a + 1) vs

/-- The memory whose byte at address `a`, `lo ≤ a < lo + n`, is `f a`. -/
def Memory.fill (f : Nat → Byte) (lo : Nat) : Nat → Memory
  | 0 => []
  | n + 1 => if f lo = 0 then fill f (lo + 1) n else (lo, f lo) :: fill f (lo + 1) n

/-! ### The data window (20_memory.md R74 to R78) -/

/-- What a window address names (20_memory.md R77). -/
inductive Window where
  | display (i : Nat)
  | buttons
  | hour
  | minute
  | second
  | bank
  | memory
deriving DecidableEq, Repr

/-- The I/O check, in the order of R75; it looks only at the window address (R78). -/
def windowOf (k : Config) (a : Byte) : Window :=
  if k.ioDispBase.toNat ≤ a.toNat ∧ a.toNat < k.ioDispBase.toNat + k.dispLen then
    .display (a.toNat - k.ioDispBase.toNat)
  else if a = k.ioBtn then .buttons
  else if a = k.ioHour then .hour
  else if a = k.ioMin then .minute
  else if a = k.ioSec then .second
  else if a = k.ioBank then .bank
  else .memory

/-- The index in `MEM` of window address `a` of bank `b`: `256*b + a` (10_state.md R44, 20_memory.md R89). -/
def memIndex (b : BankNo) (a : Byte) : Nat := 256 * b.toNat + a.toNat

/-- `TakeBank()` (R74). -/
def takeBank (s : State) : BankNo × State := (s.bp, s.setBp 0)

/-- `HostClock()` (60_exceptions.md R322, log 18): the next free answer of the host. -/
def hostClock (s : State) : ClockBytes × State :=
  (Config.hostClock s.clockReads, { s with clockReads := s.clockReads + 1 })

/-- `MemRead(a, 1)` (R75). -/
def memRead (a : Byte) (s : State) : Byte × State :=
  let (b, s) := takeBank s
  match windowOf config a with
  | .display i => (s.disp.read i, s)
  | .buttons => (s.btn, s)
  | .hour => ((hostClock s).1.hour, (hostClock s).2)
  | .minute => ((hostClock s).1.minute, (hostClock s).2)
  | .second => ((hostClock s).1.second, (hostClock s).2)
  | .bank => (b.setWidth 8, s)
  | .memory => (s.mem.read (memIndex b a), s)

/-- `MemWrite(a, 1, v)` (R76): a write to a read-only I/O address is dropped. -/
def memWrite (a v : Byte) (s : State) : State :=
  let (b, s) := takeBank s
  match windowOf config a with
  | .display i => s.setDisp (s.disp.write i v)
  | .buttons | .hour | .minute | .second | .bank => s
  | .memory => s.setMem (s.mem.write (memIndex b a) v)

/-- The loop of BCPY (49_system.md R267): `n` bytes, ascending, each one read and then one write. Addresses
wrap modulo 256. -/
def copyBytes : Nat → Byte → Byte → State → State
  | 0, _, _, s => s
  | n + 1, src, dst, s =>
    copyBytes n (src + 1) (dst + 1) (memWrite dst (memRead src s).1 (memRead src s).2)

/-! ### The stack (10_state.md R40, R41) -/

/-- `Push(v)`: write, then decrement; `sp` wraps. -/
def push (v : Byte) (s : State) : State :=
  { s with stack := s.stack.write s.sp.toNat v, sp := s.sp - 1 }

/-- `Pop()`: increment, then read; `STACK` is unchanged. -/
def pop (s : State) : Byte × State :=
  (s.stack.read (s.sp + 1).toNat, { s with sp := s.sp + 1 })

/-! ### Pixels (10_state.md R47) -/

/-- The byte that holds pixel (X, Y): `Y*8 + (X >> 1)`. -/
def pixelOffset (x y : Nat) : Nat := y * 8 + x / 2

/-- A byte with the pixel of an even (high nibble) or odd (low nibble) column replaced. -/
def mergePixel (old : Byte) (x : Nat) (col : BitVec 4) : Byte :=
  if x % 2 = 0 then .ofNat 8 (col.toNat * 16 + old.toNat % 16)
  else .ofNat 8 (old.toNat / 16 * 16 + col.toNat)

/-- The pixel at column `x`, row `y` of a video memory. -/
def Memory.pixel (m : Memory) (x y : Nat) : BitVec 4 :=
  if x % 2 = 0 then .ofNat 4 ((m.read (pixelOffset x y)).toNat / 16)
  else .ofNat 4 (m.read (pixelOffset x y)).toNat

/-- Plotting (49_system.md R265, R266): out-of-range coordinates are silently ignored. -/
def plot (m : Memory) (x y : Byte) (col : BitVec 4) : Memory :=
  if x.toNat ≤ 15 ∧ y.toNat ≤ 15 then
    let off := pixelOffset x.toNat y.toNat
    m.write off (mergePixel (m.read off) x.toNat col)
  else m

/-! ### Fetch (20_memory.md R70, R80, R81) and reserved words (30_encoding.md R127) -/

/-- `FetchByte(a)`: bank 0 of `MEM`, read directly. -/
def fetchByte (s : State) (a : Byte) : Byte := s.mem.read (memIndex 0 a)

/-- The byte at `pc`. -/
def fetchHi (s : State) : Byte := fetchByte s s.pc

/-- The byte at `(pc + 1) mod 256`. -/
def fetchLo (s : State) : Byte := fetchByte s (s.pc + 1)

/-- Decoding the two fetched bytes (30_encoding.md R111). -/
def fetchDecode (s : State) : Decoded := decode (fetchHi s) (fetchLo s)

/-- `pc <- (pc + 2) mod 256`, before executing (R111). -/
def advancePc (s : State) : State := s.setPc (s.pc + 2)

/-- A reserved encoding, after the prologue (30_encoding.md R127, log 4). -/
def onReserved (g : Reserved) (s : State) : Host.Outcome State Fault Refusal :=
  match config.reservedPolicy with
  | .nop => .next s
  | .refuse => .refused (.reservedEncoding g)

/-- The two bytes of an instruction stored where the next fetch takes them, on a machine that runs (log 34). -/
def placeAtPc (s : State) (hi lo : Byte) : State :=
  { s with
    halt := false
    mem := (s.mem.write (memIndex 0 s.pc) hi).write (memIndex 0 (s.pc + 1)) lo }

end Sys2Proof.Machine
end

