-- ==== Sys2Proof/Machine/Operands.lean ====
section
/-! DEFINITION. The operand forms (30_encoding.md R114 to R124, 43_loadstore.md) and the fixed registers of the
instructions with implicit operands (10_state.md R31). -/

namespace Sys2Proof.Machine

/-- Format MI: the address is the byte in `Ra` (43_loadstore.md R190, R192). -/
def eaIndirect (ra : Reg) (s : State) : Byte := s.reg ra

/-- Format MA: the address is the byte `W[7:0]` (43_loadstore.md R191, R193). -/
def eaAbsolute (addr : Byte) : Byte := addr

/-- Where MUL puts the high byte of the product and DIV the quotient (41_arith.md R162, R163; logs 6, 7). -/
def pairFirst : Reg := .r0

/-- Where MUL puts the low byte of the product and DIV the remainder (41_arith.md R162, R163; logs 6, 7). -/
def pairSecond : Reg := .r1

/-- The X of PLOTF and PLOTV (49_system.md R265; log 13). -/
def plotX (s : State) : Byte := s.reg .r0

/-- The Y of PLOTF and PLOTV. -/
def plotY (s : State) : Byte := s.reg .r1

/-- The colour of PLOTF and PLOTV: `x[2][3:0]`. -/
def plotColour (s : State) : BitVec 4 := (s.reg .r2).extractLsb' 0 4

/-- The source address of BCPY (49_system.md R267; log 14). -/
def copySource (s : State) : Byte := s.reg .r0

/-- The destination address of BCPY. -/
def copyDest (s : State) : Byte := s.reg .r1

/-- The byte count of BCPY. -/
def copyCount (s : State) : Nat := (s.reg .r2).toNat

/-- The 7-bit-masked offset of VPEEK and VPOKE, `x[0][6:0]` (49_system.md R268, R269; log 15). -/
def videoOffset (s : State) : Nat := (s.reg .r0).toNat % 128

/-- The register VPEEK writes and VPOKE reads (49_system.md R268, R269; log 15). -/
def videoData : Reg := .r1

/-- Writing a byte result and `Z` from it, `C` unchanged (42_logic.md, 47_incdec.md). -/
def writeZ (rd : Reg) (r : Byte) (s : State) : State := (s.setReg rd r).setZ (zeroFlag r)

/-- Writing a byte result, `Z` from it and the given `C` (41_arith.md R160, 42_logic.md R174 to R177). -/
def writeZC (rd : Reg) (r : Byte) (c : Bool) (s : State) : State :=
  ((s.setReg rd r).setZ (zeroFlag r)).setC c

/-- Setting `Z` and `C` "exactly as subtraction does" (44_compare.md R200, R201). -/
def compareFlags (x y : Byte) (s : State) : State := (s.setZ (subZero x y)).setC (subBorrow x y)

/-- Popping into a register (46_call_stack.md R225, R227). -/
def popReg (rd : Reg) (s : State) : State := (pop s).2.setReg rd (pop s).1

/-- Popping into the program counter: the logic both RET encodings share (46_call_stack.md R221,
49_system.md R261). -/
def popPc (s : State) : State := (pop s).2.setPc (pop s).1

end Sys2Proof.Machine
end

