-- ==== Sys2Proof/Machine/Arith.lean ====
section
/-! DEFINITION. The arithmetic group (41_arith.md). -/

namespace Sys2Proof.Machine

/-- `ADD Rd, Rs` (R160). -/
def execAdd (rd rs : Reg) (s : State) : Host.Outcome State Fault Refusal :=
  let x := s.reg rd
  let y := s.reg rs
  .next (writeZC rd (addValue x y) (addCarry x y) s)

/-- `SUB Rd, Rs` (R161): `C` is the borrow. -/
def execSub (rd rs : Reg) (s : State) : Host.Outcome State Fault Refusal :=
  let x := s.reg rd
  let y := s.reg rs
  .next (compareFlags x y (s.setReg rd (subValue x y)))

/-- `MUL Rd, Rs` (R162): both factors are read first; the product goes to the fixed pair R0, R1. -/
def execMul (rd rs : Reg) (s : State) : Host.Outcome State Fault Refusal :=
  let p := product (s.reg rd) (s.reg rs)
  .next ((((s.setReg pairFirst (productHigh p)).setReg pairSecond (productLow p)).setZ (productZero p)).setC false)

/-- `DIV Rd, Rs` (R163): a zero divisor sets `C` and changes nothing else. -/
def execDiv (rd rs : Reg) (s : State) : Host.Outcome State Fault Refusal :=
  let n := s.reg rd
  let m := s.reg rs
  if m = 0 then .next (s.setC true)
  else
    .next ((((s.setReg pairFirst (quotient n m)).setReg pairSecond (remainder n m)).setZ
      (zeroFlag (quotient n m))).setC false)

end Sys2Proof.Machine
end

