-- ==== Sys2Proof/Machine/BankSelect.lean ====
section
/-! DEFINITION. Bank select (48_bank.md). -/

namespace Sys2Proof.Machine

/-- `BANK k` (R250): sets the one-shot prefix; it makes no access itself. -/
def execBank (k : BankNo) (s : State) : Host.Outcome State Fault Refusal :=
  .next (s.setBp k)

end Sys2Proof.Machine
end

