-- ==== Sys2Proof/Machine/CallStack.lean ====
section
/-! DEFINITION. Call, return and the stack (46_call_stack.md). -/

namespace Sys2Proof.Machine

/-- `CALL addr` (R220): pushes the address of the next instruction, one byte. -/
def execCall (addr : Byte) (s : State) : Host.Outcome State Fault Refusal :=
  .next ((push s.pc s).setPc addr)

/-- `RET`, primary encoding (R221). -/
def execRet (s : State) : Host.Outcome State Fault Refusal :=
  .next (popPc s)

/-- `PUSH Rd` (R224). -/
def execPush (rd : Reg) (s : State) : Host.Outcome State Fault Refusal :=
  .next (push (s.reg rd) s)

/-- `POP Rd` (R225). -/
def execPop (rd : Reg) (s : State) : Host.Outcome State Fault Refusal :=
  .next (popReg rd s)

/-- `PUSHA` (R226): R0, R1, R2, R3 in this order. -/
def execPusha (s : State) : Host.Outcome State Fault Refusal :=
  .next (push (s.reg .r3) (push (s.reg .r2) (push (s.reg .r1) (push (s.reg .r0) s))))

/-- `POPA` (R227): R3, R2, R1, R0, the reverse of PUSHA. -/
def execPopa (s : State) : Host.Outcome State Fault Refusal :=
  .next (popReg .r0 (popReg .r1 (popReg .r2 (popReg .r3 s))))

end Sys2Proof.Machine
end

