-- ==== Sys2Proof/Machine/Compare.lean ====
section
/-! DEFINITION. Compare (44_compare.md): only `Z` and `C` are written. -/

namespace Sys2Proof.Machine

/-- `CMP Rd, Rs` (R200). -/
def execCmpRR (rd rs : Reg) (s : State) : Host.Outcome State Fault Refusal :=
  .next (compareFlags (s.reg rd) (s.reg rs) s)

/-- `CMP Rd, #imm` (R201). -/
def execCmpRI (rd : Reg) (imm : Byte) (s : State) : Host.Outcome State Fault Refusal :=
  .next (compareFlags (s.reg rd) imm s)

end Sys2Proof.Machine
end

