-- ==== Sys2Proof/Machine/IncDec.lean ====
section
/-! DEFINITION. Increment and decrement (47_incdec.md): `Z` only. -/

namespace Sys2Proof.Machine

/-- `INC Rd` (R240). -/
def execInc (rd : Reg) (s : State) : Host.Outcome State Fault Refusal :=
  .next (writeZ rd (incValue (s.reg rd)) s)

/-- `DEC Rd` (R241). -/
def execDec (rd : Reg) (s : State) : Host.Outcome State Fault Refusal :=
  .next (writeZ rd (decValue (s.reg rd)) s)

end Sys2Proof.Machine
end

