-- ==== Sys2Proof/Machine/Jump.lean ====
section
/-! DEFINITION. Jumps (45_jumps.md): `pc` already holds the next sequential address; not taken changes nothing. -/

namespace Sys2Proof.Machine

/-- `JMP addr` (R210). -/
def execJmp (addr : Byte) (s : State) : Host.Outcome State Fault Refusal :=
  .next (s.setPc addr)

/-- `JZ addr` (R211). -/
def execJz (addr : Byte) (s : State) : Host.Outcome State Fault Refusal :=
  .next (if s.z then s.setPc addr else s)

/-- `JNZ addr` (R212). -/
def execJnz (addr : Byte) (s : State) : Host.Outcome State Fault Refusal :=
  .next (if s.z then s else s.setPc addr)

/-- `JC addr` (R213). -/
def execJc (addr : Byte) (s : State) : Host.Outcome State Fault Refusal :=
  .next (if s.c then s.setPc addr else s)

end Sys2Proof.Machine
end

