-- ==== Sys2Proof/Machine/LoadStore.lean ====
section
/-! DEFINITION. Memory load and store (43_loadstore.md): every access consumes `BP`; no flag is written (R194). -/

namespace Sys2Proof.Machine

/-- `LD Rd, [Ra]` (R190): the address is read before the register is written. -/
def execLdInd (rd ra : Reg) (s : State) : Host.Outcome State Fault Refusal :=
  let r := memRead (eaIndirect ra s) s
  .next (r.2.setReg rd r.1)

/-- `LD Rd, [addr]` (R191). -/
def execLdAbs (rd : Reg) (addr : Byte) (s : State) : Host.Outcome State Fault Refusal :=
  let r := memRead (eaAbsolute addr) s
  .next (r.2.setReg rd r.1)

/-- `ST Rd, [Ra]` (R192). -/
def execStInd (rd ra : Reg) (s : State) : Host.Outcome State Fault Refusal :=
  .next (memWrite (eaIndirect ra s) (s.reg rd) s)

/-- `ST Rd, [addr]` (R193). -/
def execStAbs (rd : Reg) (addr : Byte) (s : State) : Host.Outcome State Fault Refusal :=
  .next (memWrite (eaAbsolute addr) (s.reg rd) s)

end Sys2Proof.Machine
end

