-- ==== Sys2Proof/Machine/Logic.lean ====
section
/-! DEFINITION. The bitwise and unary group (42_logic.md). -/

namespace Sys2Proof.Machine

/-- `AND Rd, Rs` (R170): `C` is unchanged. -/
def execAndRR (rd rs : Reg) (s : State) : Host.Outcome State Fault Refusal :=
  .next (writeZ rd (s.reg rd &&& s.reg rs) s)

/-- `OR Rd, Rs` (R171): `C` is unchanged. -/
def execOrRR (rd rs : Reg) (s : State) : Host.Outcome State Fault Refusal :=
  .next (writeZ rd (s.reg rd ||| s.reg rs) s)

/-- `XOR Rd, Rs` (R172): `C` is unchanged. -/
def execXorRR (rd rs : Reg) (s : State) : Host.Outcome State Fault Refusal :=
  .next (writeZ rd (s.reg rd ^^^ s.reg rs) s)

/-- `NOT Rd` (R173): one's complement, `C` unchanged. -/
def execNot (rd : Reg) (s : State) : Host.Outcome State Fault Refusal :=
  .next (writeZ rd (notValue (s.reg rd)) s)

/-- `SHL Rd` (R174): shift left by one. -/
def execShl (rd : Reg) (s : State) : Host.Outcome State Fault Refusal :=
  .next (writeZC rd (shlValue (s.reg rd)) (outLeft (s.reg rd)) s)

/-- `SHR Rd` (R175): logical shift right by one. -/
def execShr (rd : Reg) (s : State) : Host.Outcome State Fault Refusal :=
  .next (writeZC rd (shrValue (s.reg rd)) (outRight (s.reg rd)) s)

/-- `ROL Rd` (R176): 8-bit rotate left by one, not through `C`. -/
def execRol (rd : Reg) (s : State) : Host.Outcome State Fault Refusal :=
  .next (writeZC rd (rolValue (s.reg rd)) (outLeft (s.reg rd)) s)

/-- `ROR Rd` (R177): 8-bit rotate right by one, not through `C`. -/
def execRor (rd : Reg) (s : State) : Host.Outcome State Fault Refusal :=
  .next (writeZC rd (rorValue (s.reg rd)) (outRight (s.reg rd)) s)

/-- `AND Rd, #imm` (R178): `C` is unchanged. -/
def execAndRI (rd : Reg) (imm : Byte) (s : State) : Host.Outcome State Fault Refusal :=
  .next (writeZ rd (s.reg rd &&& imm) s)

/-- `OR Rd, #imm` (R179): `C` is unchanged. -/
def execOrRI (rd : Reg) (imm : Byte) (s : State) : Host.Outcome State Fault Refusal :=
  .next (writeZ rd (s.reg rd ||| imm) s)

/-- `XOR Rd, #imm` (R180): `C` is unchanged. -/
def execXorRI (rd : Reg) (imm : Byte) (s : State) : Host.Outcome State Fault Refusal :=
  .next (writeZ rd (s.reg rd ^^^ imm) s)

end Sys2Proof.Machine
end

