-- ==== Sys2Proof/Machine/Move.lean ====
section
/-! DEFINITION. Register transfer and immediate load (40_move.md): no flag is written. -/

namespace Sys2Proof.Machine

/-- `MOV Rd, Rs` (R150). -/
def execMovRR (rd rs : Reg) (s : State) : Host.Outcome State Fault Refusal :=
  .next (s.setReg rd (s.reg rs))

/-- `MOV Rd, #imm` (R151). -/
def execMovRI (rd : Reg) (imm : Byte) (s : State) : Host.Outcome State Fault Refusal :=
  .next (s.setReg rd imm)

end Sys2Proof.Machine
end

