-- ==== Sys2Proof/Machine/System.lean ====
section
/-! DEFINITION. The system group (49_system.md): no flag is written; only BCPY touches `BP`. -/

namespace Sys2Proof.Machine

/-- `NOP` (R260). -/
def execNop (s : State) : Host.Outcome State Fault Refusal :=
  .next s

/-- `RET`, the system-group alias (R261): "shares stack-pop logic". -/
def execRetSys (s : State) : Host.Outcome State Fault Refusal :=
  .next (popPc s)

/-- `FLIP` (R262): the whole of `VRAM` is copied to `FB` in one operation. -/
def execFlip (s : State) : Host.Outcome State Fault Refusal :=
  .next (s.setFb s.vram)

/-- `CLRF` (R263): every byte of `FB` becomes 0. -/
def execClrf (s : State) : Host.Outcome State Fault Refusal :=
  .next (s.setFb [])

/-- `CLRV` (R264): every byte of `VRAM` becomes 0. -/
def execClrv (s : State) : Host.Outcome State Fault Refusal :=
  .next (s.setVram [])

/-- `PLOTF` (R265). -/
def execPlotf (s : State) : Host.Outcome State Fault Refusal :=
  .next (s.setFb (plot s.fb (plotX s) (plotY s) (plotColour s)))

/-- `PLOTV` (R266). -/
def execPlotv (s : State) : Host.Outcome State Fault Refusal :=
  .next (s.setVram (plot s.vram (plotX s) (plotY s) (plotColour s)))

/-- `BCPY` (R267): the whole copy happens inside one step. -/
def execBcpy (s : State) : Host.Outcome State Fault Refusal :=
  .next (copyBytes (copyCount s) (copySource s) (copyDest s) s)

/-- `VPEEK` (R268). -/
def execVpeek (s : State) : Host.Outcome State Fault Refusal :=
  .next (s.setReg videoData (s.vram.read (videoOffset s)))

/-- `VPOKE` (R269). -/
def execVpoke (s : State) : Host.Outcome State Fault Refusal :=
  .next (s.setVram (s.vram.write (videoOffset s) (s.reg videoData)))

/-- `HLT` (R270). -/
def execHlt (s : State) : Host.Outcome State Fault Refusal :=
  .next s.setHalt

end Sys2Proof.Machine
end

