-- ==== Sys2Proof/Machine/Dispatch.lean ====
section
/-! DEFINITION. One arm per instruction, each one call of its meaning. `exec` runs on the state after the
prologue of 30_encoding.md R111: `pc` is already advanced. -/

namespace Sys2Proof.Machine

def exec (i : Instr) (s : State) : Host.Outcome State Fault Refusal :=
  match i with
  | .nop => Sys2Proof.Machine.execNop s
  | .retSys => Sys2Proof.Machine.execRetSys s
  | .flip => Sys2Proof.Machine.execFlip s
  | .clrf => Sys2Proof.Machine.execClrf s
  | .clrv => Sys2Proof.Machine.execClrv s
  | .plotf => Sys2Proof.Machine.execPlotf s
  | .plotv => Sys2Proof.Machine.execPlotv s
  | .bcpy => Sys2Proof.Machine.execBcpy s
  | .vpeek => Sys2Proof.Machine.execVpeek s
  | .vpoke => Sys2Proof.Machine.execVpoke s
  | .hlt => Sys2Proof.Machine.execHlt s
  | .movRR rd rs => Sys2Proof.Machine.execMovRR rd rs s
  | .movRI rd imm => Sys2Proof.Machine.execMovRI rd imm s
  | .add rd rs => Sys2Proof.Machine.execAdd rd rs s
  | .sub rd rs => Sys2Proof.Machine.execSub rd rs s
  | .mul rd rs => Sys2Proof.Machine.execMul rd rs s
  | .div rd rs => Sys2Proof.Machine.execDiv rd rs s
  | .andRR rd rs => Sys2Proof.Machine.execAndRR rd rs s
  | .orRR rd rs => Sys2Proof.Machine.execOrRR rd rs s
  | .xorRR rd rs => Sys2Proof.Machine.execXorRR rd rs s
  | .not rd => Sys2Proof.Machine.execNot rd s
  | .shl rd => Sys2Proof.Machine.execShl rd s
  | .shr rd => Sys2Proof.Machine.execShr rd s
  | .rol rd => Sys2Proof.Machine.execRol rd s
  | .ror rd => Sys2Proof.Machine.execRor rd s
  | .andRI rd imm => Sys2Proof.Machine.execAndRI rd imm s
  | .orRI rd imm => Sys2Proof.Machine.execOrRI rd imm s
  | .xorRI rd imm => Sys2Proof.Machine.execXorRI rd imm s
  | .ldInd rd ra => Sys2Proof.Machine.execLdInd rd ra s
  | .ldAbs rd addr => Sys2Proof.Machine.execLdAbs rd addr s
  | .stInd rd ra => Sys2Proof.Machine.execStInd rd ra s
  | .stAbs rd addr => Sys2Proof.Machine.execStAbs rd addr s
  | .cmpRR rd rs => Sys2Proof.Machine.execCmpRR rd rs s
  | .cmpRI rd imm => Sys2Proof.Machine.execCmpRI rd imm s
  | .jmp addr => Sys2Proof.Machine.execJmp addr s
  | .jz addr => Sys2Proof.Machine.execJz addr s
  | .jnz addr => Sys2Proof.Machine.execJnz addr s
  | .jc addr => Sys2Proof.Machine.execJc addr s
  | .call addr => Sys2Proof.Machine.execCall addr s
  | .ret => Sys2Proof.Machine.execRet s
  | .push rd => Sys2Proof.Machine.execPush rd s
  | .pop rd => Sys2Proof.Machine.execPop rd s
  | .pusha => Sys2Proof.Machine.execPusha s
  | .popa => Sys2Proof.Machine.execPopa s
  | .inc rd => Sys2Proof.Machine.execInc rd s
  | .dec rd => Sys2Proof.Machine.execDec rd s
  | .bank k => Sys2Proof.Machine.execBank k s

end Sys2Proof.Machine
end

