-- ==== Sys2Proof/Machine/Step.lean ====
section
/-! DEFINITION. One step (30_encoding.md R110, R111) and the placing of an instruction at the fetch. -/

namespace Sys2Proof.Machine

/-- `step()`: nothing when halted (R110); otherwise fetch two bytes, advance `pc` by 2, decode, execute (R111). -/
def step (s : State) : Host.Outcome State Fault Refusal :=
  if s.halt then .next s
  else
    match fetchDecode s with
    | .instr i => exec i (advancePc s)
    | .reserved g => onReserved g (advancePc s)

/-- The instruction whose table bits are `w`, stored where the next step fetches, on a running machine. -/
def State.withFetchWord (s : State) (nbits w : Nat) : State :=
  placeAtPc s (tableBytes nbits w).1 (tableBytes nbits w).2

end Sys2Proof.Machine
end

