-- ==== Sys2Proof/Machine/HostCommands.lean ====
section
/-! DEFINITION. The host's commands and read accessors (10_state.md R56, R57; 60_exceptions.md R321;
70_reset_and_hazards.md R340, R341). A command acts between steps and is atomic. -/

namespace Sys2Proof.Machine

/-- Main memory after a load: zero, then the first `PROG_MAX` bytes in bank 0 from address 0, written straight
into `MEM` and not through `MemWrite` (70_reset_and_hazards.md R340). -/
def imageOf (bytes : List Byte) : Memory := Memory.load [] 0 (bytes.take config.progMax)

/-- `loadProgram(bytes)` (70_reset_and_hazards.md R340). The model's two counters go on: they only choose which
free value comes next. -/
def loadProgram (bytes : List Byte) (s : State) : State :=
  { s with
    regs := ⟨0, 0, 0, 0⟩
    pc := 0
    sp := 0xFF
    z := false
    n := false
    c := false
    bp := 0
    halt := false
    mem := imageOf bytes
    stack := []
    vram := []
    fb := []
    disp := []
    btn := 0
    image := imageOf bytes }

/-- `reset()` (70_reset_and_hazards.md R341): `STACK`, `VRAM`, `FB` and `DISP` hold free values afterwards;
`BTN` and `IMAGE` are unchanged. -/
def warmReset (s : State) : State :=
  { s with
    regs := ⟨0, 0, 0, 0⟩
    pc := 0
    sp := 0xFF
    z := false
    n := false
    c := false
    bp := 0
    halt := false
    mem := s.image
    stack := Memory.fill (Config.resetStackByte s.resets) 0 256
    vram := Memory.fill (Config.resetVramByte s.resets) 0 128
    fb := Memory.fill (Config.resetFbByte s.resets) 0 128
    disp := Memory.fill (Config.resetDispByte s.resets) 0 config.dispLen
    resets := s.resets + 1 }

/-- A byte with bit `i` set or cleared. -/
def setBit (v : Byte) (i : Nat) (b : Bool) : Byte :=
  if b then v ||| (1#8 <<< i) else v &&& ~~~(1#8 <<< i)

/-- `setInput(index, pressed)` (60_exceptions.md R321): an index outside 0..7 changes nothing. -/
def setInput (index : Int) (pressed : Bool) (s : State) : State :=
  if 0 ≤ index ∧ index ≤ 7 then { s with btn := setBit s.btn index.toNat pressed } else s

/-- The commands of 10_state.md R56; the clock input is the free value `Config.hostClock`. -/
inductive Command where
  | step
  | loadProgram (bytes : List Byte)
  | reset
  | setInput (index : Int) (pressed : Bool)
deriving DecidableEq, Repr

/-- One command. Every command is allowed in the halted state (60_exceptions.md R321, R327). -/
def runCommand (k : Command) (s : State) : Host.Outcome State Fault Refusal :=
  match k with
  | .step => step s
  | .loadProgram bytes => .next (loadProgram bytes s)
  | .reset => .next (warmReset s)
  | .setInput index pressed => .next (setInput index pressed s)

/-- A sequence of commands: "exactly one writer (the driver thread)" (10_state.md R56). -/
def runCommands : List Command → State → Host.Outcome State Fault Refusal
  | [], s => .next s
  | k :: ks, s =>
    match runCommand k s with
    | .next s' => runCommands ks s'
    | .fault r => .fault r
    | .refused r => .refused r

/-- What the host's read accessors show (10_state.md R57): neither `BP` nor `IMAGE`. -/
structure View where
  regs : Regs
  pc : Byte
  sp : Byte
  z : Bool
  n : Bool
  c : Bool
  halt : Bool
  mem : Memory
  stack : Memory
  vram : Memory
  fb : Memory
  disp : Memory
  btn : Byte
deriving DecidableEq, Repr

/-- Reading has no side effect (R57). -/
def State.view (s : State) : View where
  regs := s.regs
  pc := s.pc
  sp := s.sp
  z := s.z
  n := s.n
  c := s.c
  halt := s.halt
  mem := s.mem
  stack := s.stack
  vram := s.vram
  fb := s.fb
  disp := s.disp
  btn := s.btn

end Sys2Proof.Machine
end

