-- ==== Sys2Proof/WellFormed.lean ====
section
/-! DEFINITION. Well-formedness of instructions and of a configuration. -/

namespace Sys2Proof

/-- Every term of `Instr` is well-formed: its operand types admit exactly the values the encoding admits
(a 2-bit register, 10_state.md R30; an unsigned byte, 30_encoding.md R124; a 2-bit bank, 48_bank.md R250), so
there is nothing left to check. -/
def Instr.wf (_ : Instr) : Bool := true

/-- The read-only I/O addresses (20_memory.md R76, R77). -/
def Config.readOnlyAddrs (c : Config) : List Byte := [c.ioBtn, c.ioHour, c.ioMin, c.ioSec, c.ioBank]

/-- The display range does not wrap past 0xFF (00_scope.md R6). -/
def Config.displayFits (c : Config) : Bool := decide (c.ioDispBase.toNat + c.dispLen ≤ 256)

/-- The five single addresses are pairwise distinct (00_scope.md R6). -/
def Config.addrsDistinct (c : Config) : Bool := decide c.readOnlyAddrs.Nodup

/-- No single address lies in the display range (00_scope.md R6: "the I/O addresses are pairwise distinct"). -/
def Config.displayApart (c : Config) : Bool :=
  c.readOnlyAddrs.all fun a =>
    !(decide (c.ioDispBase.toNat ≤ a.toNat) && decide (a.toNat < c.ioDispBase.toNat + c.dispLen))

/-- The loader stays in bank 0 (70_reset_and_hazards.md R340: "bank 0, from address 0"). -/
def Config.imageFits (c : Config) : Bool := decide (c.progMax ≤ 256)

/-- The constraints a choice of parameters must meet (00_scope.md R6, 70_reset_and_hazards.md R340). -/
def Config.wf (c : Config) : Bool :=
  c.displayFits && c.addrsDistinct && c.displayApart && c.imageFits

end Sys2Proof
end

