-- ==== Sys2Proof/Safety.lean ====
section
/-! DEFINITION. The terms the claims are stated in: what a well-formed state is, which instructions may touch
which state, and a few shapes that several claims share. -/

namespace Sys2Proof

/-- The instructions that write `Z` (10_state.md R37; DIV only for a divisor that is not 0). -/
def Instr.writesZ : Instr → Bool
  | .add _ _ | .sub _ _ | .mul _ _ | .div _ _ | .andRR _ _ | .orRR _ _ | .xorRR _ _ | .not _
  | .shl _ | .shr _ | .rol _ | .ror _ | .andRI _ _ | .orRI _ _ | .xorRI _ _ | .cmpRR _ _
  | .cmpRI _ _ | .inc _ | .dec _ => true
  | .nop | .retSys | .flip | .clrf | .clrv | .plotf | .plotv | .bcpy | .vpeek | .vpoke | .hlt
  | .movRR _ _ | .movRI _ _ | .ldInd _ _ | .ldAbs _ _ | .stInd _ _ | .stAbs _ _ | .jmp _
  | .jz _ | .jnz _ | .jc _ | .call _ | .ret | .push _ | .pop _ | .pusha | .popa | .bank _ => false

/-- The instructions that write `C` (10_state.md R37). -/
def Instr.writesC : Instr → Bool
  | .add _ _ | .sub _ _ | .mul _ _ | .div _ _ | .shl _ | .shr _ | .rol _ | .ror _ | .cmpRR _ _
  | .cmpRI _ _ => true
  | .nop | .retSys | .flip | .clrf | .clrv | .plotf | .plotv | .bcpy | .vpeek | .vpoke | .hlt
  | .movRR _ _ | .movRI _ _ | .andRR _ _ | .orRR _ _ | .xorRR _ _ | .not _ | .andRI _ _
  | .orRI _ _ | .xorRI _ _ | .ldInd _ _ | .ldAbs _ _ | .stInd _ _ | .stAbs _ _ | .jmp _
  | .jz _ | .jnz _ | .jc _ | .call _ | .ret | .push _ | .pop _ | .pusha | .popa | .inc _
  | .dec _ | .bank _ => false

/-- The instructions that may overwrite `pc` (10_state.md R33). -/
def Instr.setsPc : Instr → Bool
  | .retSys | .jmp _ | .jz _ | .jnz _ | .jc _ | .call _ | .ret => true
  | .nop | .flip | .clrf | .clrv | .plotf | .plotv | .bcpy | .vpeek | .vpoke | .hlt
  | .movRR _ _ | .movRI _ _ | .add _ _ | .sub _ _ | .mul _ _ | .div _ _ | .andRR _ _
  | .orRR _ _ | .xorRR _ _ | .not _ | .shl _ | .shr _ | .rol _ | .ror _ | .andRI _ _
  | .orRI _ _ | .xorRI _ _ | .ldInd _ _ | .ldAbs _ _ | .stInd _ _ | .stAbs _ _ | .cmpRR _ _
  | .cmpRI _ _ | .push _ | .pop _ | .pusha | .popa | .inc _ | .dec _ | .bank _ => false

/-- The instructions that write through `MemWrite` (20_memory.md R95). -/
def Instr.storesData : Instr → Bool
  | .bcpy | .stInd _ _ | .stAbs _ _ => true
  | .nop | .retSys | .flip | .clrf | .clrv | .plotf | .plotv | .vpeek | .vpoke | .hlt
  | .movRR _ _ | .movRI _ _ | .add _ _ | .sub _ _ | .mul _ _ | .div _ _ | .andRR _ _
  | .orRR _ _ | .xorRR _ _ | .not _ | .shl _ | .shr _ | .rol _ | .ror _ | .andRI _ _
  | .orRI _ _ | .xorRI _ _ | .ldInd _ _ | .ldAbs _ _ | .cmpRR _ _ | .cmpRI _ _ | .jmp _
  | .jz _ | .jnz _ | .jc _ | .call _ | .ret | .push _ | .pop _ | .pusha | .popa | .inc _
  | .dec _ | .bank _ => false

/-- The instructions that may make a data-window access (20_memory.md R79, R95). -/
def Instr.accessesData : Instr → Bool
  | .bcpy | .ldInd _ _ | .ldAbs _ _ | .stInd _ _ | .stAbs _ _ => true
  | .nop | .retSys | .flip | .clrf | .clrv | .plotf | .plotv | .vpeek | .vpoke | .hlt
  | .movRR _ _ | .movRI _ _ | .add _ _ | .sub _ _ | .mul _ _ | .div _ _ | .andRR _ _
  | .orRR _ _ | .xorRR _ _ | .not _ | .shl _ | .shr _ | .rol _ | .ror _ | .andRI _ _
  | .orRI _ _ | .xorRI _ _ | .cmpRR _ _ | .cmpRI _ _ | .jmp _ | .jz _ | .jnz _ | .jc _
  | .call _ | .ret | .push _ | .pop _ | .pusha | .popa | .inc _ | .dec _ | .bank _ => false

/-- The instructions that write `STACK` (10_state.md R45, 46_call_stack.md). -/
def Instr.pushes : Instr → Bool
  | .call _ | .push _ | .pusha => true
  | .nop | .retSys | .flip | .clrf | .clrv | .plotf | .plotv | .bcpy | .vpeek | .vpoke | .hlt
  | .movRR _ _ | .movRI _ _ | .add _ _ | .sub _ _ | .mul _ _ | .div _ _ | .andRR _ _
  | .orRR _ _ | .xorRR _ _ | .not _ | .shl _ | .shr _ | .rol _ | .ror _ | .andRI _ _
  | .orRI _ _ | .xorRI _ _ | .ldInd _ _ | .ldAbs _ _ | .stInd _ _ | .stAbs _ _ | .cmpRR _ _
  | .cmpRI _ _ | .jmp _ | .jz _ | .jnz _ | .jc _ | .ret | .pop _ | .popa | .inc _ | .dec _
  | .bank _ => false

/-- The instructions that change `sp` (10_state.md R35, 46_call_stack.md, 49_system.md R261). -/
def Instr.movesSp : Instr → Bool
  | .retSys | .call _ | .ret | .push _ | .pop _ | .pusha | .popa => true
  | .nop | .flip | .clrf | .clrv | .plotf | .plotv | .bcpy | .vpeek | .vpoke | .hlt
  | .movRR _ _ | .movRI _ _ | .add _ _ | .sub _ _ | .mul _ _ | .div _ _ | .andRR _ _
  | .orRR _ _ | .xorRR _ _ | .not _ | .shl _ | .shr _ | .rol _ | .ror _ | .andRI _ _
  | .orRI _ _ | .xorRI _ _ | .ldInd _ _ | .ldAbs _ _ | .stInd _ _ | .stAbs _ _ | .cmpRR _ _
  | .cmpRI _ _ | .jmp _ | .jz _ | .jnz _ | .jc _ | .inc _ | .dec _ | .bank _ => false

/-- The instructions that write `VRAM` (10_state.md R46). -/
def Instr.drawsVram : Instr → Bool
  | .clrv | .plotv | .vpoke => true
  | .nop | .retSys | .flip | .clrf | .plotf | .bcpy | .vpeek | .hlt | .movRR _ _ | .movRI _ _
  | .add _ _ | .sub _ _ | .mul _ _ | .div _ _ | .andRR _ _ | .orRR _ _ | .xorRR _ _ | .not _
  | .shl _ | .shr _ | .rol _ | .ror _ | .andRI _ _ | .orRI _ _ | .xorRI _ _ | .ldInd _ _
  | .ldAbs _ _ | .stInd _ _ | .stAbs _ _ | .cmpRR _ _ | .cmpRI _ _ | .jmp _ | .jz _ | .jnz _
  | .jc _ | .call _ | .ret | .push _ | .pop _ | .pusha | .popa | .inc _ | .dec _ | .bank _ => false

/-- The instructions that write `FB` (10_state.md R46). -/
def Instr.drawsFb : Instr → Bool
  | .flip | .clrf | .plotf => true
  | .nop | .retSys | .clrv | .plotv | .bcpy | .vpeek | .vpoke | .hlt | .movRR _ _ | .movRI _ _
  | .add _ _ | .sub _ _ | .mul _ _ | .div _ _ | .andRR _ _ | .orRR _ _ | .xorRR _ _ | .not _
  | .shl _ | .shr _ | .rol _ | .ror _ | .andRI _ _ | .orRI _ _ | .xorRI _ _ | .ldInd _ _
  | .ldAbs _ _ | .stInd _ _ | .stAbs _ _ | .cmpRR _ _ | .cmpRI _ _ | .jmp _ | .jz _ | .jnz _
  | .jc _ | .call _ | .ret | .push _ | .pop _ | .pusha | .popa | .inc _ | .dec _ | .bank _ => false

/-- The registers an instruction writes (10_state.md R31 and the instruction's rule). -/
def Instr.dests : Instr → List Reg
  | .vpeek => [.r1]
  | .mul _ _ | .div _ _ => [.r0, .r1]
  | .popa => [.r0, .r1, .r2, .r3]
  | .movRR rd _ | .movRI rd _ | .add rd _ | .sub rd _ | .andRR rd _ | .orRR rd _ | .xorRR rd _ | .not rd
  | .shl rd | .shr rd | .rol rd | .ror rd | .andRI rd _ | .orRI rd _ | .xorRI rd _ | .ldInd rd _
  | .ldAbs rd _ | .pop rd | .inc rd | .dec rd => [rd]
  | .nop | .retSys | .flip | .clrf | .clrv | .plotf | .plotv | .bcpy | .vpoke | .hlt | .stInd _ _ | .stAbs _ _
  | .cmpRR _ _ | .cmpRI _ _ | .jmp _ | .jz _ | .jnz _ | .jc _ | .call _ | .ret | .push _ | .pusha
  | .bank _ => []

/-- Every word of this pattern is this instruction (30_encoding.md R121: `W & mask == match`). -/
def Encodes (mask pattern : Word) (build : Word → Instr) : Prop :=
  ∀ w : Word, w &&& mask = pattern → decodeWord w = .instr (build w)

end Sys2Proof

namespace Sys2Proof.Machine

/-- The invariants of 10_state.md R59 that the types do not already hold: every memory is in its canonical form
within its size (R44 to R50), and `N = 0` (R39). -/
def State.wf (s : State) : Bool :=
  s.mem.wf 1024 && s.image.wf 1024 && s.stack.wf 256 && s.vram.wf 128 && s.fb.wf 128 &&
    s.disp.wf config.dispLen && !s.n

/-- Pushing a sequence of bytes, the first one first. -/
def pushAll : List Byte → State → State
  | [], s => s
  | v :: vs, s => pushAll vs (push v s)

/-- Popping `n` bytes: the values in the order they come, and the state after. -/
def popMany : Nat → State → List Byte × State
  | 0, s => ([], s)
  | n + 1, s => ((pop s).1 :: (popMany n (pop s).2).1, (popMany n (pop s).2).2)

/-- The result of AND, OR, XOR, NOT (42_logic.md): `f` bit by bit of `Rd` and `y`, `Z` from it, all else kept. -/
def BitwiseResult (f : Bool → Bool → Bool) (y : Byte) (rd : Reg) (s t : State) : Prop :=
  (∀ k, k < 8 → (t.reg rd).getLsbD k = f ((s.reg rd).getLsbD k) (y.getLsbD k)) ∧
  (t.z = true ↔ (t.reg rd).toNat = 0) ∧
  (∀ r, r ≠ rd → t.reg r = s.reg r) ∧
  t = { s with regs := t.regs, z := t.z }

/-- The result of a shift or rotate (42_logic.md R174 to R177): the value, `C` the bit shifted out, `Z` from the
value, all else kept. -/
def ShiftResult (value : Nat) (out : Prop) (rd : Reg) (s t : State) : Prop :=
  (t.reg rd).toNat = value ∧
  (t.c = true ↔ out) ∧
  (t.z = true ↔ value = 0) ∧
  (∀ r, r ≠ rd → t.reg r = s.reg r) ∧
  t = { s with regs := t.regs, z := t.z, c := t.c }

/-- The effect of a load of address `a` into `rd` (43_loadstore.md R190, R191): the byte `MemRead` gives, `BP`
consumed, all else kept (a clock address also samples the clock). -/
def LoadEffect (a : Byte) (rd : Reg) (s t : State) : Prop :=
  t.reg rd = (memRead a s).1 ∧
  (∀ r, r ≠ rd → t.reg r = s.reg r) ∧
  t.bp = 0 ∧
  t.clockReads = (memRead a s).2.clockReads ∧
  t = { s with regs := t.regs, bp := t.bp, clockReads := t.clockReads }

/-- The effect of storing `v` at window address `a` (20_memory.md R76, R77), by the class of the address. -/
def StoreEffect (a v : Byte) (s t : State) : Prop :=
  t = { s with bp := 0, mem := t.mem, disp := t.disp } ∧
  (a.toNat < 0xF0 ∨ 0xFC < a.toNat →
    t.mem.read (memIndex s.bp a) = v ∧ (∀ b, b ≠ memIndex s.bp a → t.mem.read b = s.mem.read b) ∧
    t.disp = s.disp) ∧
  (0xF0 ≤ a.toNat ∧ a.toNat ≤ 0xF7 →
    t.disp.read (a.toNat - 0xF0) = v ∧ (∀ b, b ≠ a.toNat - 0xF0 → t.disp.read b = s.disp.read b) ∧
    t.mem = s.mem) ∧
  (0xF8 ≤ a.toNat ∧ a.toNat ≤ 0xFC → t.mem = s.mem ∧ t.disp = s.disp)

/-- The effect of plotting on a video memory (49_system.md R265, R266; 10_state.md R47): in range, the one pixel
(R0, R1) becomes the low 4 bits of R2 and no other pixel and no other byte changes; out of range, nothing. -/
def PlotEffect (m m' : Memory) (s : State) : Prop :=
  ((s.reg .r0).toNat ≤ 15 ∧ (s.reg .r1).toNat ≤ 15 →
    (∀ x y, x ≤ 15 → y ≤ 15 →
      m'.pixel x y =
        if x = (s.reg .r0).toNat ∧ y = (s.reg .r1).toNat then (s.reg .r2).setWidth 4 else m.pixel x y) ∧
    (∀ a, a ≠ (s.reg .r1).toNat * 8 + (s.reg .r0).toNat / 2 → m'.read a = m.read a)) ∧
  (15 < (s.reg .r0).toNat ∨ 15 < (s.reg .r1).toNat → m' = m)

/-- The commands that neither load a program nor reset. -/
def Command.keepsRunning : Command → Bool
  | .step | .setInput _ _ => true
  | .loadProgram _ | .reset => false

end Sys2Proof.Machine
end

