-- ==== Sys2Proof/Certificates/Slice0/Obligations.lean ====
section
/-! DEFINITION. The statements for the provers. `exec` acts on the state after the prologue of 30_encoding.md R111.
An equation `t = { s with f := t.f, … }` is a frame: every field it does not name, so every register, flag, special
register and every byte of every memory not named, is in `t` as in `s`. "log n" is notes/assumptions/n.md, "D n" a
decision of spec/92_eei_decisions.md. -/

open Sys2Proof Sys2Proof.Machine

/-- Words written out from the encodings decode to their instructions. Words of the spec's own examples
(95_test_vectors.md); the numbers are decisions D1 to D13 of 92_eei_decisions.md (logs 1, 2). -/
def Obligations.SampleWordsDecode : Prop :=
  decode 0x20 0x05 = .instr (.movRI .r0 5) ∧ decode 0x18 0x00 = .instr (.movRR .r2 .r0) ∧
  decode 0x31 0x00 = .instr (.add .r0 .r1) ∧ decode 0x3B 0x03 = .instr (.div .r2 .r3) ∧
  decode 0x48 0x03 = .instr (.not .r2) ∧ decode 0x54 0x0F = .instr (.andRI .r1 0x0F) ∧
  decode 0x65 0x10 = .instr (.ldAbs .r1 0x10) ∧ decode 0x62 0x02 = .instr (.stInd .r0 .r2) ∧
  decode 0x88 0x20 = .instr (.cmpRI .r2 0x20) ∧ decode 0xA1 0x04 = .instr (.jnz 0x04) ∧
  decode 0xC0 0x10 = .instr (.call 0x10) ∧ decode 0xD8 0x01 = .instr (.pop .r2) ∧
  decode 0xE1 0x00 = .instr (.dec .r0) ∧ decode 0xF0 0x02 = .instr (.bank 2) ∧
  decode 0x00 0x06 = .instr .plotv ∧ decode 0x00 0x0A = .instr .hlt

/-- Decoding the encoding of any instruction gives it back, as a word and as two bytes. Decode and encode agree
on all 47 rows (30_encoding.md R121, R130), every operand at every value the encoding admits. -/
def Obligations.DecodeOfEncodeIsTheInstruction : Prop :=
  ∀ i : Instr, decodeWord (encode i) = .instr i ∧
    ∃ hi lo, encodeBytes i = [hi, lo] ∧ decode hi lo = .instr i

/-- The decoder and the opcode table of R121 are the same table. 30_encoding.md R121, held against the decoding
algorithm of R130. The numbers are decisions D2 to D14 (logs 2, 3). -/
def Obligations.DecoderFollowsOpcodeTable : Prop :=
  opcodeTable.length = 47 ∧
  (∀ r ∈ opcodeTable, ∀ w : Word, w &&& r.mask = r.pattern → decodeWord w = .instr (r.build w)) ∧
  (∀ (w : Word) (i : Instr), decodeWord w = .instr i →
    ∃ r ∈ opcodeTable, w &&& r.mask = r.pattern ∧ r.build w = i) ∧
  opcodeTable.Pairwise (fun r r' => ∀ w : Word, ¬(w &&& r.mask = r.pattern ∧ w &&& r'.mask = r'.pattern))

/-- The rejected words are exactly the five groups of R126. 30_encoding.md R126 (a) to (e), which the spec marks
as derived from R121. -/
def Obligations.ReservedWordsAreTheFiveGroups : Prop :=
  ∀ w : Word,
    (decodeWord w = .reserved .sys ↔ fieldOp w = 0x0 ∧ 0x0A < (fieldLo w).toNat) ∧
    (decodeWord w = .reserved .arith ↔ fieldOp w = 0x3 ∧ 0x03 < (fieldLo w).toNat) ∧
    (decodeWord w = .reserved .logic ↔ fieldOp w = 0x4 ∧ 0x07 < (fieldLo w).toNat) ∧
    (decodeWord w = .reserved .logicImm ↔ fieldOp w = 0x5 ∧ fieldB w = 3) ∧
    (decodeWord w = .reserved .stack ↔ fieldOp w = 0xD ∧ 0x03 < (fieldLo w).toNat)

/-- Don't-care bits do not change what a word is; the canonical encoding has them 0. 30_encoding.md R125
(decision D14, log 3). -/
def Obligations.DontCareBitsAreIgnored : Prop :=
  ∀ r ∈ opcodeTable, ∀ w : Word, w &&& r.mask = r.pattern →
    (∀ w' : Word, (w ^^^ w') &&& ~~~r.dontCare = 0 → decodeWord w' = decodeWord w) ∧
    encode (r.build w) = w &&& ~~~r.dontCare

/-- A step of a running machine executes the fetched instruction on the state with pc advanced by 2.
30_encoding.md R111: fetch, advance, decode, execute. Nothing else of the state changes before the
instruction runs. -/
def Obligations.StepRunsDecodedInstruction : Prop :=
  ∀ (s : State) (i : Instr), s.halt = false →
    decode (s.mem.read s.pc.toNat) (s.mem.read ((s.pc.toNat + 1) % 256)) = .instr i →
    step s = exec i { s with pc := .ofNat 8 ((s.pc.toNat + 2) % 256) }

/-- A step of a halted machine changes nothing. 30_encoding.md R110. -/
def Obligations.HaltedStepChangesNothing : Prop :=
  ∀ s : State, s.halt = true → step s = .next s

/-- A step over a reserved word advances pc by 2 and changes nothing else (the model's policy, log 4).
30_encoding.md R127, decision D15. That the model takes this and not the refusal 90_conflicts.md C11 also
allows is its own choice (log 4). -/
def Obligations.ReservedWordIsNoOperation : Prop :=
  ∀ (s : State) (g : Reserved), s.halt = false →
    decode (s.mem.read s.pc.toNat) (s.mem.read ((s.pc.toNat + 1) % 256)) = .reserved g →
    step s = .next { s with pc := .ofNat 8 ((s.pc.toNat + 2) % 256) }

/-- No sequence of host commands ever faults or is refused. 60_exceptions.md R300: every step completes. For
reserved words it rests on the model's policy (log 4). -/
def Obligations.EveryCommandSequenceCompletes : Prop :=
  ∀ (ks : List Command) (s : State), ∃ t, runCommands ks s = .next t

/-- HALT is set by the HLT instruction alone and cleared by loadProgram and reset alone. 10_state.md R43. -/
def Obligations.HaltBitSetOnlyByHlt : Prop :=
  (∀ s t : State, s.halt = false → step s = .next t →
    (t.halt = true ↔ decode (s.mem.read s.pc.toNat) (s.mem.read ((s.pc.toNat + 1) % 256)) = .instr .hlt)) ∧
  (∀ s t : State, s.halt = true → step s = .next t → t.halt = true) ∧
  (∀ (bytes : List Byte) (s : State), (loadProgram bytes s).halt = false) ∧
  (∀ s : State, (warmReset s).halt = false) ∧
  (∀ (k : Int) (p : Bool) (s : State), (setInput k p s).halt = s.halt)

/-- Nothing but loadProgram and reset wakes a halted machine: all its state but the buttons stays.
60_exceptions.md R327. -/
def Obligations.HaltedMachineStaysPut : Prop :=
  ∀ (ks : List Command) (s t : State), s.halt = true → ks.all Command.keepsRunning = true →
    runCommands ks s = .next t → t = { s with btn := t.btn }

/-- After any instruction that is no jump, call or return, pc is its address + 2 mod 256. 10_state.md R33. -/
def Obligations.SequentialPcAdvancesByTwo : Prop :=
  ∀ (s t : State) (i : Instr), s.halt = false → decode (s.mem.read s.pc.toNat) (s.mem.read ((s.pc.toNat + 1) % 256)) = .instr i →
    i.setsPc = false → step s = .next t → t.pc.toNat = (s.pc.toNat + 2) % 256

/-- Only the instructions of the table of R37 write Z or C; none writes N. 10_state.md R37, R39; the silent
cases are decisions D20, D22, D23 (logs 8, 10, 11). -/
def Obligations.FlagsKeptOutsideTheWriters : Prop :=
  ∀ (i : Instr) (s t : State), exec i s = .next t →
    t.n = s.n ∧ (i.writesZ = false → t.z = s.z) ∧ (i.writesC = false → t.c = s.c)

/-- An instruction writes only the registers its rule names. 00_scope.md R18, 10_state.md R31; which registers
are fixed are decisions D17, D18, D24, D27 (logs 6, 7, 12, 15). -/
def Obligations.RegistersKeptOutsideTheDestinations : Prop :=
  ∀ (i : Instr) (s t : State) (r : Reg), exec i s = .next t → r ∉ i.dests → t.reg r = s.reg r

/-- What every instruction does to the bank prefix. 10_state.md R42, 20_memory.md R79 (decision D38, log 26; D26
for a zero count, log 14). -/
def Obligations.BankPrefixWriters : Prop :=
  ∀ (i : Instr) (s t : State), exec i s = .next t →
    t.bp = match i with
      | .bank k => k
      | .ldInd _ _ | .ldAbs _ _ | .stInd _ _ | .stAbs _ _ => 0
      | .bcpy => if (s.reg .r2).toNat = 0 then s.bp else 0
      | _ => s.bp

/-- Which instructions can change which memory. 10_state.md R54, with R35, R45, R46, R49, R50. -/
def Obligations.MemoriesReachedByInstructions : Prop :=
  ∀ (i : Instr) (s t : State), exec i s = .next t →
    t.image = s.image ∧ t.btn = s.btn ∧
    (i.storesData = false → t.mem = s.mem ∧ t.disp = s.disp) ∧
    (i.pushes = false → t.stack = s.stack) ∧
    (i.movesSp = false → t.sp = s.sp) ∧
    (i.drawsVram = false → t.vram = s.vram) ∧
    (i.drawsFb = false → t.fb = s.fb)

/-- No step writes the MEM bytes behind the I/O addresses, in any bank. 20_memory.md R76 and R78, at the default
addresses of decision D28 (logs 16, 25). -/
def Obligations.BytesBehindIoAreNeverWritten : Prop :=
  ∀ (s t : State) (k a : Nat), step s = .next t → k < 4 → 0xF0 ≤ a → a ≤ 0xFC →
    t.mem.read (256 * k + a) = s.mem.read (256 * k + a)

/-- No step reads or writes IMAGE or N. 10_state.md R38 (no instruction reads N) and R50 (no instruction reads
or writes IMAGE). -/
def Obligations.SnapshotAndNegativeFlagAreUnread : Prop :=
  ∀ (s t : State) (m : Memory) (b : Bool), step s = .next t →
    step { s with image := m, n := b } = .next { t with image := m, n := b }

/-- No instruction reads the framebuffer: it influences nothing but itself. 10_state.md R46: FB is read only by
the host. -/
def Obligations.FramebufferIsUnread : Prop :=
  ∀ (s t : State) (m : Memory), step s = .next t →
    ∃ m', step { s with fb := m } = .next { t with fb := m' }

/-- The state at power-on meets the invariant. 10_state.md R58 gives the contents and R59 the ranges and N = 0.
That the lists are in canonical form is no rule of the spec: the form is the model's own (log 33, DESIGN
CHOICE). -/
def Obligations.PowerOnStateIsWellFormed : Prop :=
  State.reset.wf = true

/-- Every step keeps the invariant: memories in range and canonical, N = 0. 10_state.md R59: the invariants the
types do not already hold. The canonical form is the model's own (log 33). -/
def Obligations.EveryStepKeepsWellFormed : Prop :=
  ∀ s t : State, s.wf = true → step s = .next t → t.wf = true

/-- Every sequence of host commands keeps the invariant. The ranges and N = 0 are 10_state.md R59, the commands
R56. The canonical form that is kept with them is the model's own (log 33, DESIGN CHOICE), and so is the
form of the free bytes a warm reset leaves (log 21, DESIGN CHOICE): the claim holds whatever they are. -/
def Obligations.EveryCommandKeepsWellFormed : Prop :=
  ∀ (ks : List Command) (s t : State), s.wf = true → runCommands ks s = .next t → t.wf = true

/-- What MemRead returns at every window address, and that it clears BP. 20_memory.md R75 at the default
addresses of R77 (decisions D28, D29, D30, D37; logs 16, 17, 18, 25). The clock bytes are free values. -/
def Obligations.DataReadRule : Prop :=
  ∀ (a : Byte) (s : State),
    (0xF0 ≤ a.toNat ∧ a.toNat ≤ 0xF7 → memRead a s = (s.disp.read (a.toNat - 0xF0), { s with bp := 0 })) ∧
    (a.toNat = 0xF8 → memRead a s = (s.btn, { s with bp := 0 })) ∧
    (a.toNat = 0xF9 → memRead a s =
      ((Config.hostClock s.clockReads).hour, { s with bp := 0, clockReads := s.clockReads + 1 })) ∧
    (a.toNat = 0xFA → memRead a s =
      ((Config.hostClock s.clockReads).minute, { s with bp := 0, clockReads := s.clockReads + 1 })) ∧
    (a.toNat = 0xFB → memRead a s =
      ((Config.hostClock s.clockReads).second, { s with bp := 0, clockReads := s.clockReads + 1 })) ∧
    (a.toNat = 0xFC → memRead a s = (s.bp.setWidth 8, { s with bp := 0 })) ∧
    (a.toNat < 0xF0 ∨ 0xFC < a.toNat →
      memRead a s = (s.mem.read (256 * s.bp.toNat + a.toNat), { s with bp := 0 }))

/-- What MemWrite does at every window address, and that it clears BP. 20_memory.md R76 at the default addresses
of R77 (decisions D28, D37; logs 16, 25). -/
def Obligations.DataWriteRule : Prop :=
  ∀ (a v : Byte) (s : State),
    StoreEffect a v s (memWrite a v s) ∧ memIndex s.bp a = 256 * s.bp.toNat + a.toNat

/-- A data read returns what was last written to the same byte. 20_memory.md R90, with R82 for the display. -/
def Obligations.DataReadReturnsLastWrite : Prop :=
  ∀ (a b v : Byte) (k : BankNo) (s : State), (a.toNat < 0xF8 ∨ 0xFC < a.toNat) →
    (b.toNat < 0xF8 ∨ 0xFC < b.toNat) →
    (memRead a { memWrite a v s with bp := s.bp }).1 = v ∧
    (a ≠ b → (memRead b { memWrite a v s with bp := k }).1 = (memRead b { s with bp := k }).1) ∧
    (k ≠ s.bp → (a.toNat < 0xF0 ∨ 0xFC < a.toNat) →
      (memRead a { memWrite a v s with bp := k }).1 = (memRead a { s with bp := k }).1)

/-- Push writes then decrements, Pop increments then reads, both wrapping. 10_state.md R40, R41. -/
def Obligations.PushAndPopPrimitives : Prop :=
  ∀ (v : Byte) (s : State),
    ((push v s).stack.read s.sp.toNat = v ∧
      (∀ a, a ≠ s.sp.toNat → (push v s).stack.read a = s.stack.read a) ∧
      (push v s).sp.toNat = (s.sp.toNat + 255) % 256 ∧
      push v s = { s with stack := (push v s).stack, sp := (push v s).sp }) ∧
    ((pop s).1 = s.stack.read ((s.sp.toNat + 1) % 256) ∧
      (pop s).2.sp.toNat = (s.sp.toNat + 1) % 256 ∧
      (pop s).2 = { s with sp := (pop s).2.sp })

/-- N pushes followed by N pops give the values back in reverse order, and sp, for N up to 256. 46_call_stack.md
R225: the property holds for N up to 256. -/
def Obligations.StackDiscipline : Prop :=
  ∀ (vs : List Byte) (s : State), vs.length ≤ 256 →
    (popMany vs.length (pushAll vs s)).1 = vs.reverse ∧
    (popMany vs.length (pushAll vs s)).2 = { s with stack := (pushAll vs s).stack }

/-- A store to bank 0, by ST or BCPY, is seen by the next fetch; a store to banks 1 to 3 never is. 20_memory.md
R93, which the spec derives from R80: self-modifying code needs no fence. The byte order of BCPY is decision
D26 (log 14), the I/O addresses D28 (log 16). The addresses are computed with the meanings' own functions. -/
def Obligations.StoreToBankZeroIsFetched : Prop :=
  (∀ (rd : Reg) (addr : Byte) (s : State), ∃ t, exec (.stAbs rd addr) s = .next t ∧
    ∀ a, fetchByte t a =
      if ((eaAbsolute addr).toNat < 0xF0 ∨ 0xFC < (eaAbsolute addr).toNat) ∧ s.bp = 0 ∧ a = eaAbsolute addr then
        s.reg rd
      else fetchByte s a) ∧
  (∀ (rd ra : Reg) (s : State), ∃ t, exec (.stInd rd ra) s = .next t ∧
    ∀ a, fetchByte t a =
      if ((eaIndirect ra s).toNat < 0xF0 ∨ 0xFC < (eaIndirect ra s).toNat) ∧ s.bp = 0 ∧ a = eaIndirect ra s then
        s.reg rd
      else fetchByte s a) ∧
  (∀ s : State, (s.reg .r2).toNat = 0 → exec .bcpy s = .next s) ∧
  (∀ s : State, 0 < (s.reg .r2).toNat →
    ∃ u t, exec .bcpy (s.setReg .r2 (s.reg .r2 - 1)) = .next u ∧ exec .bcpy s = .next t ∧
      ∀ a, fetchByte t a =
        if ((s.reg .r1 + (s.reg .r2 - 1)).toNat < 0xF0 ∨ 0xFC < (s.reg .r1 + (s.reg .r2 - 1)).toNat) ∧
            a = s.reg .r1 + (s.reg .r2 - 1) then
          (memRead (s.reg .r0 + (s.reg .r2 - 1)) u).1
        else fetchByte u a)

/-- MOV copies a register or loads an immediate; nothing else changes, no flag. 40_move.md R150, R151
(encodings: decisions D2, D3; log 2). -/
def Obligations.MoveRule : Prop :=
  Encodes 0xF000 0x1000 (fun w => .movRR (regA w) (regB w)) ∧
  Encodes 0xF000 0x2000 (fun w => .movRI (regA w) (fieldLo w)) ∧
  (∀ (rd rs : Reg) (s : State), ∃ t, exec (.movRR rd rs) s = .next t ∧ t.reg rd = s.reg rs ∧
    (∀ r, r ≠ rd → t.reg r = s.reg r) ∧ t = { s with regs := t.regs }) ∧
  (∀ (rd : Reg) (imm : Byte) (s : State), ∃ t, exec (.movRI rd imm) s = .next t ∧ t.reg rd = imm ∧
    (∀ r, r ≠ rd → t.reg r = s.reg r) ∧ t = { s with regs := t.regs })

/-- ADD: the sum mod 256, Z on a zero result, C on a sum above 255. 41_arith.md R160 (encoding: decisions D2,
D4; log 2). -/
def Obligations.AddRule : Prop :=
  Encodes 0xF0FF 0x3000 (fun w => .add (regA w) (regB w)) ∧
  ∀ (rd rs : Reg) (s : State), ∃ t, exec (.add rd rs) s = .next t ∧
    (t.reg rd).toNat = ((s.reg rd).toNat + (s.reg rs).toNat) % 256 ∧
    (t.z = true ↔ ((s.reg rd).toNat + (s.reg rs).toNat) % 256 = 0) ∧
    (t.c = true ↔ (s.reg rd).toNat + (s.reg rs).toNat > 255) ∧
    (∀ r, r ≠ rd → t.reg r = s.reg r) ∧
    t = { s with regs := t.regs, z := t.z, c := t.c }

/-- SUB: the difference mod 256, Z on a zero result, C on a borrow. 41_arith.md R161 (encoding: decisions D2,
D4; log 2). -/
def Obligations.SubRule : Prop :=
  Encodes 0xF0FF 0x3001 (fun w => .sub (regA w) (regB w)) ∧
  ∀ (rd rs : Reg) (s : State), ∃ t, exec (.sub rd rs) s = .next t ∧
    ((t.reg rd).toNat : Int) = ((s.reg rd).toNat - (s.reg rs).toNat : Int) % 256 ∧
    (t.z = true ↔ ((s.reg rd).toNat - (s.reg rs).toNat : Int) % 256 = 0) ∧
    (t.c = true ↔ ((s.reg rd).toNat - (s.reg rs).toNat : Int) < 0) ∧
    (∀ r, r ≠ rd → t.reg r = s.reg r) ∧
    t = { s with regs := t.regs, z := t.z, c := t.c }

/-- MUL: the 16-bit product in R0 (high) and R1 (low), Z on a zero product, C cleared. 41_arith.md R162; that
the pair is R0, R1 is decision D17 (log 6). -/
def Obligations.MulRule : Prop :=
  Encodes 0xF0FF 0x3002 (fun w => .mul (regA w) (regB w)) ∧
  ∀ (rd rs : Reg) (s : State), ∃ t, exec (.mul rd rs) s = .next t ∧
    (t.reg .r0).toNat = (s.reg rd).toNat * (s.reg rs).toNat / 256 ∧
    (t.reg .r1).toNat = (s.reg rd).toNat * (s.reg rs).toNat % 256 ∧
    (t.z = true ↔ (s.reg rd).toNat * (s.reg rs).toNat = 0) ∧
    t.c = false ∧
    (∀ r, r ≠ .r0 → r ≠ .r1 → t.reg r = s.reg r) ∧
    t = { s with regs := t.regs, z := t.z, c := t.c }

/-- DIV: quotient in R0 and remainder in R1 with C cleared, or C set and nothing else for a zero divisor.
41_arith.md R163, R165; the pair and Z are decisions D18, D19 (log 7). -/
def Obligations.DivRule : Prop :=
  Encodes 0xF0FF 0x3003 (fun w => .div (regA w) (regB w)) ∧
  ∀ (rd rs : Reg) (s : State), ∃ t, exec (.div rd rs) s = .next t ∧
    ((s.reg rs).toNat = 0 → t = { s with c := true }) ∧
    ((s.reg rs).toNat ≠ 0 →
      (t.reg .r0).toNat = (s.reg rd).toNat / (s.reg rs).toNat ∧
      (s.reg rs).toNat * (t.reg .r0).toNat + (t.reg .r1).toNat = (s.reg rd).toNat ∧
      (t.reg .r1).toNat < (s.reg rs).toNat ∧
      (t.z = true ↔ (t.reg .r0).toNat = 0) ∧
      t.c = false ∧
      (∀ r, r ≠ .r0 → r ≠ .r1 → t.reg r = s.reg r) ∧
      t = { s with regs := t.regs, z := t.z, c := t.c })

/-- AND, OR, XOR (both forms) and NOT, bit by bit, with Z from the result and C kept. 42_logic.md R170 to R173
and R178 to R180; that C is kept is decision D20 (log 8). -/
def Obligations.LogicRule : Prop :=
  Encodes 0xF0FF 0x4000 (fun w => .andRR (regA w) (regB w)) ∧
  Encodes 0xF0FF 0x4001 (fun w => .orRR (regA w) (regB w)) ∧
  Encodes 0xF0FF 0x4002 (fun w => .xorRR (regA w) (regB w)) ∧
  Encodes 0xF0FF 0x4003 (fun w => .not (regA w)) ∧
  Encodes 0xF300 0x5000 (fun w => .andRI (regA w) (fieldLo w)) ∧
  Encodes 0xF300 0x5100 (fun w => .orRI (regA w) (fieldLo w)) ∧
  Encodes 0xF300 0x5200 (fun w => .xorRI (regA w) (fieldLo w)) ∧
  (∀ (rd rs : Reg) (s : State), ∃ t, exec (.andRR rd rs) s = .next t ∧
    BitwiseResult (fun p q => p && q) (s.reg rs) rd s t) ∧
  (∀ (rd rs : Reg) (s : State), ∃ t, exec (.orRR rd rs) s = .next t ∧
    BitwiseResult (fun p q => p || q) (s.reg rs) rd s t) ∧
  (∀ (rd rs : Reg) (s : State), ∃ t, exec (.xorRR rd rs) s = .next t ∧
    BitwiseResult (fun p q => p != q) (s.reg rs) rd s t) ∧
  (∀ (rd : Reg) (s : State), ∃ t, exec (.not rd) s = .next t ∧
    BitwiseResult (fun p _ => !p) 0 rd s t) ∧
  (∀ (rd : Reg) (imm : Byte) (s : State), ∃ t, exec (.andRI rd imm) s = .next t ∧
    BitwiseResult (fun p q => p && q) imm rd s t) ∧
  (∀ (rd : Reg) (imm : Byte) (s : State), ∃ t, exec (.orRI rd imm) s = .next t ∧
    BitwiseResult (fun p q => p || q) imm rd s t) ∧
  (∀ (rd : Reg) (imm : Byte) (s : State), ∃ t, exec (.xorRI rd imm) s = .next t ∧
    BitwiseResult (fun p q => p != q) imm rd s t)

/-- SHL, SHR, ROL, ROR move by one position, C is the bit shifted out, Z from the result. 42_logic.md R174 to
R177; one position and a logical right shift are decision D21 (log 9). -/
def Obligations.ShiftAndRotateRule : Prop :=
  Encodes 0xF0FF 0x4004 (fun w => .shl (regA w)) ∧
  Encodes 0xF0FF 0x4005 (fun w => .shr (regA w)) ∧
  Encodes 0xF0FF 0x4006 (fun w => .rol (regA w)) ∧
  Encodes 0xF0FF 0x4007 (fun w => .ror (regA w)) ∧
  ∀ (rd : Reg) (s : State),
    (∃ t, exec (.shl rd) s = .next t ∧
      ShiftResult ((s.reg rd).toNat * 2 % 256) (128 ≤ (s.reg rd).toNat) rd s t) ∧
    (∃ t, exec (.shr rd) s = .next t ∧
      ShiftResult ((s.reg rd).toNat / 2) ((s.reg rd).toNat % 2 = 1) rd s t) ∧
    (∃ t, exec (.rol rd) s = .next t ∧
      ShiftResult ((s.reg rd).toNat * 2 % 256 + (s.reg rd).toNat / 128) (128 ≤ (s.reg rd).toNat) rd s t) ∧
    (∃ t, exec (.ror rd) s = .next t ∧
      ShiftResult ((s.reg rd).toNat / 2 + 128 * ((s.reg rd).toNat % 2)) ((s.reg rd).toNat % 2 = 1) rd s t)

/-- LD puts the byte MemRead gives into Rd and consumes BP; no flag changes. 43_loadstore.md R190, R191; no flag
is decision D23 (log 11), the mode bits D7 (log 2). -/
def Obligations.LoadRule : Prop :=
  Encodes 0xF300 0x6000 (fun w => .ldInd (regA w) (regLo w)) ∧
  Encodes 0xF300 0x6100 (fun w => .ldAbs (regA w) (fieldLo w)) ∧
  (∀ (rd ra : Reg) (s : State), ∃ t, exec (.ldInd rd ra) s = .next t ∧ LoadEffect (s.reg ra) rd s t) ∧
  (∀ (rd : Reg) (addr : Byte) (s : State), ∃ t, exec (.ldAbs rd addr) s = .next t ∧
    LoadEffect addr rd s t)

/-- ST stores Rd at the address it computes, to that byte alone, and consumes BP; no register or flag changes.
43_loadstore.md R192, R193 (logs 2, 11, 16). The address is computed with the meaning's own functions. -/
def Obligations.StoreRule : Prop :=
  Encodes 0xF300 0x6200 (fun w => .stInd (regA w) (regLo w)) ∧
  Encodes 0xF300 0x6300 (fun w => .stAbs (regA w) (fieldLo w)) ∧
  (∀ (rd ra : Reg) (s : State), ∃ t, exec (.stInd rd ra) s = .next t ∧
    StoreEffect (eaIndirect ra s) (s.reg rd) s t) ∧
  (∀ (rd : Reg) (addr : Byte) (s : State), ∃ t, exec (.stAbs rd addr) s = .next t ∧
    StoreEffect (eaAbsolute addr) (s.reg rd) s t) ∧
  (∀ (ra : Reg) (s : State), eaIndirect ra s = s.reg ra) ∧
  (∀ addr : Byte, eaAbsolute addr = addr) ∧
  (∀ (b : BankNo) (a : Byte), memIndex b a = 256 * b.toNat + a.toNat)

/-- CMP sets Z on equality and C on a borrow and changes nothing else. 44_compare.md R200, R201 (encodings:
decision D2; log 2). -/
def Obligations.CompareRule : Prop :=
  Encodes 0xF000 0x7000 (fun w => .cmpRR (regA w) (regB w)) ∧
  Encodes 0xF000 0x8000 (fun w => .cmpRI (regA w) (fieldLo w)) ∧
  (∀ (rd rs : Reg) (s : State), ∃ t, exec (.cmpRR rd rs) s = .next t ∧
    (t.z = true ↔ ((s.reg rd).toNat - (s.reg rs).toNat : Int) = 0) ∧
    (t.c = true ↔ ((s.reg rd).toNat - (s.reg rs).toNat : Int) < 0) ∧
    t = { s with z := t.z, c := t.c }) ∧
  (∀ (rd : Reg) (imm : Byte) (s : State), ∃ t, exec (.cmpRI rd imm) s = .next t ∧
    (t.z = true ↔ ((s.reg rd).toNat - imm.toNat : Int) = 0) ∧
    (t.c = true ↔ ((s.reg rd).toNat - imm.toNat : Int) < 0) ∧
    t = { s with z := t.z, c := t.c })

/-- JMP, JZ, JNZ, JC set pc to the absolute address when taken and change nothing otherwise. 45_jumps.md R210 to
R213 (encodings: decision D8; log 2). -/
def Obligations.JumpRule : Prop :=
  Encodes 0xF000 0x9000 (fun w => .jmp (fieldLo w)) ∧
  Encodes 0xF100 0xA000 (fun w => .jz (fieldLo w)) ∧
  Encodes 0xF100 0xA100 (fun w => .jnz (fieldLo w)) ∧
  Encodes 0xF000 0xB000 (fun w => .jc (fieldLo w)) ∧
  ∀ (addr : Byte) (s : State),
    exec (.jmp addr) s = .next { s with pc := addr } ∧
    exec (.jz addr) s = .next { s with pc := if s.z = true then addr else s.pc } ∧
    exec (.jnz addr) s = .next { s with pc := if s.z = false then addr else s.pc } ∧
    exec (.jc addr) s = .next { s with pc := if s.c = true then addr else s.pc }

/-- CALL pushes the address of the next instruction, one byte, and jumps. 46_call_stack.md R220 (encoding:
decision D9; log 2). -/
def Obligations.CallRule : Prop :=
  Encodes 0xF100 0xC000 (fun w => .call (fieldLo w)) ∧
  ∀ (addr : Byte) (s : State), ∃ t, exec (.call addr) s = .next t ∧
    t.stack.read s.sp.toNat = s.pc ∧
    (∀ a, a ≠ s.sp.toNat → t.stack.read a = s.stack.read a) ∧
    t.sp.toNat = (s.sp.toNat + 255) % 256 ∧
    t.pc = addr ∧
    t = { s with pc := t.pc, sp := t.sp, stack := t.stack }

/-- Both encodings of RET pop pc from the stack, with the same result. 46_call_stack.md R221, 49_system.md R261
(encodings: decisions D9, D13; log 2). -/
def Obligations.ReturnRule : Prop :=
  Encodes 0xF100 0xC100 (fun _ => .ret) ∧
  Encodes 0xF0FF 0x0001 (fun _ => .retSys) ∧
  ∀ s : State, ∃ t, exec .ret s = .next t ∧ exec .retSys s = .next t ∧
    t.sp.toNat = (s.sp.toNat + 1) % 256 ∧
    t.pc = s.stack.read ((s.sp.toNat + 1) % 256) ∧
    t = { s with pc := t.pc, sp := t.sp }

/-- PUSH stores a register on the stack, POP loads one from it, both moving sp by one. 46_call_stack.md R224,
R225 (encodings: decision D10, log 2; no flag: D23, log 11). -/
def Obligations.PushPopRule : Prop :=
  Encodes 0xF0FF 0xD000 (fun w => .push (regA w)) ∧
  Encodes 0xF0FF 0xD001 (fun w => .pop (regA w)) ∧
  (∀ (rd : Reg) (s : State), ∃ t, exec (.push rd) s = .next t ∧
    t.stack.read s.sp.toNat = s.reg rd ∧
    (∀ a, a ≠ s.sp.toNat → t.stack.read a = s.stack.read a) ∧
    t.sp.toNat = (s.sp.toNat + 255) % 256 ∧
    t = { s with sp := t.sp, stack := t.stack }) ∧
  (∀ (rd : Reg) (s : State), ∃ t, exec (.pop rd) s = .next t ∧
    t.reg rd = s.stack.read ((s.sp.toNat + 1) % 256) ∧
    (∀ r, r ≠ rd → t.reg r = s.reg r) ∧
    t.sp.toNat = (s.sp.toNat + 1) % 256 ∧
    t = { s with regs := t.regs, sp := t.sp })

/-- PUSHA pushes R0, R1, R2, R3; POPA pops R3, R2, R1, R0. 46_call_stack.md R226, R227; the order is decision
D24 (log 12). -/
def Obligations.PushAllPopAllRule : Prop :=
  Encodes 0xF0FF 0xD002 (fun _ => .pusha) ∧
  Encodes 0xF0FF 0xD003 (fun _ => .popa) ∧
  (∀ s : State, ∃ t, exec .pusha s = .next t ∧
    t.stack.read s.sp.toNat = s.reg .r0 ∧
    t.stack.read ((s.sp.toNat + 255) % 256) = s.reg .r1 ∧
    t.stack.read ((s.sp.toNat + 254) % 256) = s.reg .r2 ∧
    t.stack.read ((s.sp.toNat + 253) % 256) = s.reg .r3 ∧
    (∀ a, a ≠ s.sp.toNat → a ≠ (s.sp.toNat + 255) % 256 → a ≠ (s.sp.toNat + 254) % 256 →
      a ≠ (s.sp.toNat + 253) % 256 → t.stack.read a = s.stack.read a) ∧
    t.sp.toNat = (s.sp.toNat + 252) % 256 ∧
    t = { s with sp := t.sp, stack := t.stack }) ∧
  (∀ s : State, ∃ t, exec .popa s = .next t ∧
    t.reg .r3 = s.stack.read ((s.sp.toNat + 1) % 256) ∧
    t.reg .r2 = s.stack.read ((s.sp.toNat + 2) % 256) ∧
    t.reg .r1 = s.stack.read ((s.sp.toNat + 3) % 256) ∧
    t.reg .r0 = s.stack.read ((s.sp.toNat + 4) % 256) ∧
    t.sp.toNat = (s.sp.toNat + 4) % 256 ∧
    t = { s with regs := t.regs, sp := t.sp })

/-- PUSHA followed by POPA restores all four registers and sp, whatever happened to the registers between.
46_call_stack.md R227 (order: decision D24, log 12). -/
def Obligations.PopAllUndoesPushAll : Prop :=
  ∀ (s : State) (g : Regs), ∃ t u, exec .pusha s = .next t ∧ exec .popa { t with regs := g } = .next u ∧
    u = { s with stack := t.stack }

/-- INC and DEC: plus or minus one mod 256, Z from the result, C kept. 47_incdec.md R240, R241 (encodings:
decision D11; log 2). -/
def Obligations.IncDecRule : Prop :=
  Encodes 0xF100 0xE000 (fun w => .inc (regA w)) ∧
  Encodes 0xF100 0xE100 (fun w => .dec (regA w)) ∧
  (∀ (rd : Reg) (s : State), ∃ t, exec (.inc rd) s = .next t ∧
    (t.reg rd).toNat = ((s.reg rd).toNat + 1) % 256 ∧
    (t.z = true ↔ ((s.reg rd).toNat + 1) % 256 = 0) ∧
    (∀ r, r ≠ rd → t.reg r = s.reg r) ∧ t = { s with regs := t.regs, z := t.z }) ∧
  (∀ (rd : Reg) (s : State), ∃ t, exec (.dec rd) s = .next t ∧
    ((t.reg rd).toNat : Int) = ((s.reg rd).toNat - 1 : Int) % 256 ∧
    (t.z = true ↔ ((s.reg rd).toNat - 1 : Int) % 256 = 0) ∧
    (∀ r, r ≠ rd → t.reg r = s.reg r) ∧ t = { s with regs := t.regs, z := t.z })

/-- BANK sets the prefix to the two low bits of its word and changes nothing else. 48_bank.md R250; that only
two bits count is decision D12 (log 2). -/
def Obligations.BankRule : Prop :=
  (∀ w : Word, w &&& 0xF000 = 0xF000 →
    ∃ k : BankNo, k.toNat = w.toNat % 4 ∧ decodeWord w = .instr (.bank k)) ∧
  ∀ (k : BankNo) (s : State), exec (.bank k) s = .next { s with bp := k }

/-- After BANK k, exactly one data access uses bank k, across any instruction that makes none. 48_bank.md R250
(a), (b) and its last sentence (logs 16, 26; the I/O addresses are decision D28). -/
def Obligations.BankPrefixIsOneShot : Prop :=
  ∀ (k : BankNo) (i : Instr) (rd rq : Reg) (a b : Byte) (s : State), i.accessesData = false →
    (∀ j, i ≠ .bank j) → (a.toNat < 0xF0 ∨ 0xFC < a.toNat) → (b.toNat < 0xF0 ∨ 0xFC < b.toNat) →
    ∃ t t' u v, exec (.bank k) s = .next t ∧ exec i t = .next t' ∧ exec (.ldAbs rd a) t' = .next u ∧
      exec (.ldAbs rq b) u = .next v ∧
      u.reg rd = s.mem.read (256 * k.toNat + a.toNat) ∧ v.reg rq = s.mem.read b.toNat ∧ v.bp = 0

/-- NOP changes nothing; HLT sets HALT and nothing else. 49_system.md R260, R270 (encodings: decision D13; log
2). -/
def Obligations.NopAndHltRule : Prop :=
  Encodes 0xF0FF 0x0000 (fun _ => .nop) ∧
  Encodes 0xF0FF 0x000A (fun _ => .hlt) ∧
  ∀ s : State,
    exec .nop s = .next s ∧
    exec .hlt s = .next { s with halt := true } ∧
    step { s with halt := true } = .next { s with halt := true }

/-- FLIP copies all of VRAM to FB; CLRF and CLRV clear one of them; nothing else changes. 49_system.md R262,
R263, R264 (encodings: decision D13; log 2). -/
def Obligations.FlipAndClearRule : Prop :=
  Encodes 0xF0FF 0x0002 (fun _ => .flip) ∧
  Encodes 0xF0FF 0x0003 (fun _ => .clrf) ∧
  Encodes 0xF0FF 0x0004 (fun _ => .clrv) ∧
  (∀ s : State, ∃ t, exec .flip s = .next t ∧ (∀ a, a < 128 → t.fb.read a = s.vram.read a) ∧
    t = { s with fb := t.fb }) ∧
  (∀ s : State, ∃ t, exec .clrf s = .next t ∧ (∀ a, a < 128 → t.fb.read a = 0) ∧
    t = { s with fb := t.fb }) ∧
  (∀ s : State, ∃ t, exec .clrv s = .next t ∧ (∀ a, a < 128 → t.vram.read a = 0) ∧
    t = { s with vram := t.vram })

/-- PLOTF and PLOTV set one pixel and no other; out-of-range coordinates change nothing. 49_system.md R265,
R266, 10_state.md R47; registers, offset and nibbles are decision D25 (log 13). -/
def Obligations.PlotRule : Prop :=
  Encodes 0xF0FF 0x0005 (fun _ => .plotf) ∧
  Encodes 0xF0FF 0x0006 (fun _ => .plotv) ∧
  (∀ s : State, ∃ t, exec .plotf s = .next t ∧ PlotEffect s.fb t.fb s ∧ t = { s with fb := t.fb }) ∧
  (∀ s : State, ∃ t, exec .plotv s = .next t ∧ PlotEffect s.vram t.vram s ∧ t = { s with vram := t.vram })

/-- BCPY is the ascending loop of one MemRead and one MemWrite per byte. 49_system.md R267 (a), (b), (d), (f);
registers, count and direction are decision D26 (log 14). -/
def Obligations.BcpyIsTheByteLoop : Prop :=
  Encodes 0xF0FF 0x0007 (fun _ => .bcpy) ∧
  ∀ s : State, ∃ t, exec .bcpy s = .next t ∧
    t = (List.range (s.reg .r2).toNat).foldl
      (fun u i => memWrite (.ofNat 8 ((s.reg .r1).toNat + i))
        (memRead (.ofNat 8 ((s.reg .r0).toNat + i)) u).1 (memRead (.ofNat 8 ((s.reg .r0).toNat + i)) u).2) s ∧
    t = { s with bp := t.bp, mem := t.mem, disp := t.disp, clockReads := t.clockReads }

/-- BCPY copies a block of plain memory; after BANK only the first byte comes from the selected bank.
49_system.md R267 (c), 20_memory.md R95 (decision D26, log 14; I/O addresses D28, log 16). -/
def Obligations.BcpyCopiesPlainMemory : Prop :=
  ∀ s : State, (s.reg .r0).toNat + (s.reg .r2).toNat ≤ 0xF0 →
    (s.reg .r1).toNat + (s.reg .r2).toNat ≤ 0xF0 →
    ((s.reg .r0).toNat + (s.reg .r2).toNat ≤ (s.reg .r1).toNat ∨
      (s.reg .r1).toNat + (s.reg .r2).toNat ≤ (s.reg .r0).toNat) →
    ∃ t, exec .bcpy s = .next t ∧
      (∀ i, i < (s.reg .r2).toNat → t.mem.read ((s.reg .r1).toNat + i) =
        s.mem.read (if i = 0 then 256 * s.bp.toNat + (s.reg .r0).toNat else (s.reg .r0).toNat + i)) ∧
      (∀ a, (a < (s.reg .r1).toNat ∨ (s.reg .r1).toNat + (s.reg .r2).toNat ≤ a) →
        t.mem.read a = s.mem.read a) ∧
      t = { s with bp := if (s.reg .r2).toNat = 0 then s.bp else 0, mem := t.mem }

/-- BCPY to the address just above its source replicates the first byte. 49_system.md R267 (e): no memmove
guarantee (decision D26, log 14). -/
def Obligations.BcpyReplicatesOverlap : Prop :=
  ∀ s : State, (s.reg .r1).toNat = (s.reg .r0).toNat + 1 →
    (s.reg .r1).toNat + (s.reg .r2).toNat ≤ 0xF0 → s.bp = 0 →
    ∃ t, exec .bcpy s = .next t ∧
      ∀ i, i ≤ (s.reg .r2).toNat → t.mem.read ((s.reg .r0).toNat + i) = s.mem.read (s.reg .r0).toNat

/-- VPEEK reads and VPOKE writes the VRAM byte at R0 mod 128 through R1. 49_system.md R268, R269; the registers
are decision D27 (log 15). -/
def Obligations.PeekPokeRule : Prop :=
  Encodes 0xF0FF 0x0008 (fun _ => .vpeek) ∧
  Encodes 0xF0FF 0x0009 (fun _ => .vpoke) ∧
  (∀ s : State, ∃ t, exec .vpeek s = .next t ∧ t.reg .r1 = s.vram.read ((s.reg .r0).toNat % 128) ∧
    (∀ r, r ≠ .r1 → t.reg r = s.reg r) ∧ t = { s with regs := t.regs }) ∧
  (∀ s : State, ∃ t, exec .vpoke s = .next t ∧ t.vram.read ((s.reg .r0).toNat % 128) = s.reg .r1 ∧
    (∀ a, a ≠ (s.reg .r0).toNat % 128 → t.vram.read a = s.vram.read a) ∧ t = { s with vram := t.vram })

/-- loadProgram: everything at its cold value, the first 254 bytes in bank 0, the snapshot equal to memory.
70_reset_and_hazards.md R340 (decisions D32, D34, D39, D44; logs 20, 22, 27, 32). -/
def Obligations.LoadProgramRule : Prop :=
  ∀ (bytes : List Byte) (s : State), ∃ t, runCommand (.loadProgram bytes) s = .next t ∧
    (∀ r, t.reg r = 0) ∧ t.pc = 0 ∧ t.sp = 0xFF ∧ t.z = false ∧ t.n = false ∧ t.c = false ∧ t.bp = 0 ∧
    t.halt = false ∧ t.btn = 0 ∧
    (∀ a, t.mem.read a = if a < min bytes.length 254 then bytes.getD a 0 else 0) ∧
    t.image = t.mem ∧
    (∀ a, t.stack.read a = 0 ∧ t.vram.read a = 0 ∧ t.fb.read a = 0 ∧ t.disp.read a = 0)

/-- reset: registers at their initial values, MEM from the snapshot, BTN and IMAGE kept. 70_reset_and_hazards.md
R341 (decisions D32, D33; logs 20, 21). -/
def Obligations.WarmResetRule : Prop :=
  ∀ s : State, ∃ t, runCommand .reset s = .next t ∧
    t = { s with
      regs := ⟨0, 0, 0, 0⟩, pc := 0, sp := 0xFF, z := false, n := false, c := false, bp := 0, halt := false,
      mem := s.image, stack := t.stack, vram := t.vram, fb := t.fb, disp := t.disp, resets := t.resets }

/-- After a load and any run, reset brings the loaded program back. 70_reset_and_hazards.md R341: main memory is
restored to the last-loaded program image (decision D39, log 27; D34, log 22). -/
def Obligations.ResetRestoresLoadedProgram : Prop :=
  ∀ (bytes : List Byte) (ks : List Command) (s t : State), ks.all Command.keepsRunning = true →
    runCommands (.loadProgram bytes :: (ks ++ [.reset])) s = .next t →
    (∀ a, t.mem.read a = if a < min bytes.length 254 then bytes.getD a 0 else 0) ∧
    t.pc = 0 ∧ t.sp = 0xFF ∧ t.halt = false

/-- setInput changes one bit of BTN and nothing else; an index outside 0..7 changes nothing. 60_exceptions.md
R321 (decision D31, log 19). -/
def Obligations.SetInputRule : Prop :=
  ∀ (k : Int) (p : Bool) (s : State), ∃ t, runCommand (.setInput k p) s = .next t ∧
    (0 ≤ k ∧ k ≤ 7 → ∀ j : Nat, j < 8 → t.btn.getLsbD j = if (j : Int) = k then p else s.btn.getLsbD j) ∧
    (k < 0 ∨ 7 < k → t = s) ∧
    t = { s with btn := t.btn }

/-- The power-on state is the cold start of an empty program, with sp at 0xFF and all memory zero.
70_reset_and_hazards.md R342 (decision D39, log 27), 30_encoding.md R128. -/
def Obligations.PowerOnIsTheEmptyLoad : Prop :=
  loadProgram [] State.reset = State.reset ∧
  State.reset.sp = 0xFF ∧ State.reset.pc = 0 ∧ State.reset.halt = false ∧
  (∀ a, State.reset.mem.read a = 0 ∧ State.reset.image.read a = 0 ∧ State.reset.stack.read a = 0 ∧
    State.reset.vram.read a = 0 ∧ State.reset.fb.read a = 0 ∧ State.reset.disp.read a = 0) ∧
  step State.reset = .next { State.reset with pc := 2 }
end

