-- ==== Sys2Proof/Laws/Decode.lean ====
section
/-! SUPPORT. The fields of a packed word, and register numbers both ways. -/

namespace Sys2Proof

/-- Concatenation as arithmetic (00_scope.md R8: the left operand is the more significant part). -/
theorem toNat_append_eq {m n : Nat} (x : BitVec m) (y : BitVec n) :
    (x ++ y).toNat = x.toNat * 2 ^ n + y.toNat := by
  rw [BitVec.toNat_append, ← Nat.shiftLeft_add_eq_or_of_lt y.isLt, Nat.shiftLeft_eq]

/-- Bitwise and of concatenations works part by part. -/
theorem append_and {m n : Nat} (x x' : BitVec m) (y y' : BitVec n) :
    (x ++ y) &&& (x' ++ y') = (x &&& x') ++ (y &&& y') := by
  ext i hi
  simp only [BitVec.getElem_and, BitVec.getElem_append]
  split <;> simp

@[simp] theorem Reg.ofBits_toBits (r : Reg) : Reg.ofBits r.toBits = r := by cases r <;> rfl

@[simp] theorem Reg.toBits_ofBits (b : BitVec 2) : (Reg.ofBits b).toBits = b := by
  revert b; decide

@[simp] theorem loPair_setWidth (k : BitVec 2) : loPair (k.setWidth 8) = k := by
  revert k; decide

@[simp] theorem fieldOp_pack (op : BitVec 4) (a b : BitVec 2) (lo : Byte) :
    fieldOp (pack op a b lo) = op := by
  apply BitVec.eq_of_toNat_eq
  simp only [fieldOp, pack, BitVec.extractLsb'_toNat, toNat_append_eq,
    Nat.shiftRight_eq_div_pow]
  omega

@[simp] theorem fieldA_pack (op : BitVec 4) (a b : BitVec 2) (lo : Byte) :
    fieldA (pack op a b lo) = a := by
  apply BitVec.eq_of_toNat_eq
  simp only [fieldA, pack, BitVec.extractLsb'_toNat, toNat_append_eq,
    Nat.shiftRight_eq_div_pow]
  omega

@[simp] theorem fieldB_pack (op : BitVec 4) (a b : BitVec 2) (lo : Byte) :
    fieldB (pack op a b lo) = b := by
  apply BitVec.eq_of_toNat_eq
  simp only [fieldB, pack, BitVec.extractLsb'_toNat, toNat_append_eq,
    Nat.shiftRight_eq_div_pow]
  omega

@[simp] theorem fieldLo_pack (op : BitVec 4) (a b : BitVec 2) (lo : Byte) :
    fieldLo (pack op a b lo) = lo := by
  apply BitVec.eq_of_toNat_eq
  simp only [fieldLo, pack, BitVec.extractLsb'_toNat, toNat_append_eq,
    Nat.shiftRight_eq_div_pow]
  omega

/-- A word is the packing of its fields. -/
theorem pack_fields (w : Word) : pack (fieldOp w) (fieldA w) (fieldB w) (fieldLo w) = w := by
  apply BitVec.eq_of_toNat_eq
  have := w.isLt
  simp only [fieldOp, fieldA, fieldB, fieldLo, pack, BitVec.extractLsb'_toNat, toNat_append_eq,
    Nat.shiftRight_eq_div_pow]
  omega

/-- Decoding a packed word decodes its fields. -/
@[simp] theorem decodeWord_pack (op : BitVec 4) (a b : BitVec 2) (lo : Byte) :
    decodeWord (pack op a b lo) = decodeFields op a b lo := by
  simp [decodeWord]

/-- Bitwise and works field by field. -/
theorem pack_and (op op' : BitVec 4) (a a' b b' : BitVec 2) (lo lo' : Byte) :
    pack op a b lo &&& pack op' a' b' lo' = pack (op &&& op') (a &&& a') (b &&& b') (lo &&& lo') :=
  (append_and (op ++ a ++ b) (op' ++ a' ++ b') lo lo').trans (by rw [append_and, append_and]; rfl)

/-- Equal packings have equal fields. -/
theorem pack_inj (op op' : BitVec 4) (a a' b b' : BitVec 2) (lo lo' : Byte) :
    pack op a b lo = pack op' a' b' lo' ↔ op = op' ∧ a = a' ∧ b = b' ∧ lo = lo' := by
  constructor
  · intro h
    refine ⟨?_, ?_, ?_, ?_⟩
    · simpa using congrArg fieldOp h
    · simpa using congrArg fieldA h
    · simpa using congrArg fieldB h
    · simpa using congrArg fieldLo h
  · rintro ⟨rfl, rfl, rfl, rfl⟩; rfl

/-- The two bytes of a word, joined again, are the word. -/
theorem bytes_append (w : Word) : (w.extractLsb' 8 8 ++ w.extractLsb' 0 8 : BitVec (8 + 8)) = w := by
  apply BitVec.eq_of_toNat_eq
  have := w.isLt
  simp only [BitVec.extractLsb'_toNat, toNat_append_eq,
    Nat.shiftRight_eq_div_pow]
  omega

end Sys2Proof
end

