-- ==== Sys2Proof/Laws/Exec.lean ====
section
/-! SUPPORT. The arms of `exec` and the cases of `step`, so that no proof unfolds either. -/

namespace Sys2Proof.Machine

variable (s : State)

@[simp] theorem exec_nop : exec .nop s = execNop s := rfl
@[simp] theorem exec_retSys : exec .retSys s = execRetSys s := rfl
@[simp] theorem exec_flip : exec .flip s = execFlip s := rfl
@[simp] theorem exec_clrf : exec .clrf s = execClrf s := rfl
@[simp] theorem exec_clrv : exec .clrv s = execClrv s := rfl
@[simp] theorem exec_plotf : exec .plotf s = execPlotf s := rfl
@[simp] theorem exec_plotv : exec .plotv s = execPlotv s := rfl
@[simp] theorem exec_bcpy : exec .bcpy s = execBcpy s := rfl
@[simp] theorem exec_vpeek : exec .vpeek s = execVpeek s := rfl
@[simp] theorem exec_vpoke : exec .vpoke s = execVpoke s := rfl
@[simp] theorem exec_hlt : exec .hlt s = execHlt s := rfl
@[simp] theorem exec_movRR (rd rs : Reg) : exec (.movRR rd rs) s = execMovRR rd rs s := rfl
@[simp] theorem exec_movRI (rd : Reg) (imm : Byte) : exec (.movRI rd imm) s = execMovRI rd imm s := rfl
@[simp] theorem exec_add (rd rs : Reg) : exec (.add rd rs) s = execAdd rd rs s := rfl
@[simp] theorem exec_sub (rd rs : Reg) : exec (.sub rd rs) s = execSub rd rs s := rfl
@[simp] theorem exec_mul (rd rs : Reg) : exec (.mul rd rs) s = execMul rd rs s := rfl
@[simp] theorem exec_div (rd rs : Reg) : exec (.div rd rs) s = execDiv rd rs s := rfl
@[simp] theorem exec_andRR (rd rs : Reg) : exec (.andRR rd rs) s = execAndRR rd rs s := rfl
@[simp] theorem exec_orRR (rd rs : Reg) : exec (.orRR rd rs) s = execOrRR rd rs s := rfl
@[simp] theorem exec_xorRR (rd rs : Reg) : exec (.xorRR rd rs) s = execXorRR rd rs s := rfl
@[simp] theorem exec_not (rd : Reg) : exec (.not rd) s = execNot rd s := rfl
@[simp] theorem exec_shl (rd : Reg) : exec (.shl rd) s = execShl rd s := rfl
@[simp] theorem exec_shr (rd : Reg) : exec (.shr rd) s = execShr rd s := rfl
@[simp] theorem exec_rol (rd : Reg) : exec (.rol rd) s = execRol rd s := rfl
@[simp] theorem exec_ror (rd : Reg) : exec (.ror rd) s = execRor rd s := rfl
@[simp] theorem exec_andRI (rd : Reg) (imm : Byte) : exec (.andRI rd imm) s = execAndRI rd imm s := rfl
@[simp] theorem exec_orRI (rd : Reg) (imm : Byte) : exec (.orRI rd imm) s = execOrRI rd imm s := rfl
@[simp] theorem exec_xorRI (rd : Reg) (imm : Byte) : exec (.xorRI rd imm) s = execXorRI rd imm s := rfl
@[simp] theorem exec_ldInd (rd ra : Reg) : exec (.ldInd rd ra) s = execLdInd rd ra s := rfl
@[simp] theorem exec_ldAbs (rd : Reg) (addr : Byte) : exec (.ldAbs rd addr) s = execLdAbs rd addr s := rfl
@[simp] theorem exec_stInd (rd ra : Reg) : exec (.stInd rd ra) s = execStInd rd ra s := rfl
@[simp] theorem exec_stAbs (rd : Reg) (addr : Byte) : exec (.stAbs rd addr) s = execStAbs rd addr s := rfl
@[simp] theorem exec_cmpRR (rd rs : Reg) : exec (.cmpRR rd rs) s = execCmpRR rd rs s := rfl
@[simp] theorem exec_cmpRI (rd : Reg) (imm : Byte) : exec (.cmpRI rd imm) s = execCmpRI rd imm s := rfl
@[simp] theorem exec_jmp (addr : Byte) : exec (.jmp addr) s = execJmp addr s := rfl
@[simp] theorem exec_jz (addr : Byte) : exec (.jz addr) s = execJz addr s := rfl
@[simp] theorem exec_jnz (addr : Byte) : exec (.jnz addr) s = execJnz addr s := rfl
@[simp] theorem exec_jc (addr : Byte) : exec (.jc addr) s = execJc addr s := rfl
@[simp] theorem exec_call (addr : Byte) : exec (.call addr) s = execCall addr s := rfl
@[simp] theorem exec_ret : exec .ret s = execRet s := rfl
@[simp] theorem exec_push (rd : Reg) : exec (.push rd) s = execPush rd s := rfl
@[simp] theorem exec_pop (rd : Reg) : exec (.pop rd) s = execPop rd s := rfl
@[simp] theorem exec_pusha : exec .pusha s = execPusha s := rfl
@[simp] theorem exec_popa : exec .popa s = execPopa s := rfl
@[simp] theorem exec_inc (rd : Reg) : exec (.inc rd) s = execInc rd s := rfl
@[simp] theorem exec_dec (rd : Reg) : exec (.dec rd) s = execDec rd s := rfl
@[simp] theorem exec_bank (k : BankNo) : exec (.bank k) s = execBank k s := rfl

/-- A running machine executes the instruction it fetched, after the prologue (30_encoding.md R111). -/
theorem step_instr (i : Instr) (h : s.halt = false) (hd : fetchDecode s = .instr i) :
    step s = exec i (advancePc s) := by
  simp [step, h, hd]

/-- A running machine passes over a reserved word (30_encoding.md R127). -/
theorem step_reserved (g : Reserved) (h : s.halt = false) (hd : fetchDecode s = .reserved g) :
    step s = .next (advancePc s) := by
  simp only [step, h, hd]
  rfl

/-- Everything a step can do. -/
theorem step_cases :
    (s.halt = true ∧ step s = .next s) ∨
    (s.halt = false ∧ ∃ i, fetchDecode s = .instr i ∧ step s = exec i (advancePc s)) ∨
    (s.halt = false ∧ ∃ g, fetchDecode s = .reserved g ∧ step s = .next (advancePc s)) := by
  cases h : s.halt with
  | true => exact .inl ⟨rfl, by simp [step, h]⟩
  | false =>
    cases hd : fetchDecode s with
    | instr i => exact .inr (.inl ⟨rfl, i, rfl, step_instr s i h hd⟩)
    | reserved g => exact .inr (.inr ⟨rfl, g, rfl, step_reserved s g h hd⟩)

end Sys2Proof.Machine
end

