-- ==== Sys2Proof/Laws/Memory.lean ====
section
/-! SUPPORT. The laws of one memory: a read after a write, and every operation keeps the canonical form. -/

namespace Sys2Proof.Machine

@[simp] theorem Memory.read_nil (a : Nat) : Memory.read [] a = 0 := rfl

/-! ### Read after write -/

theorem Memory.read_erase (m : Memory) (a b : Nat) :
    (m.erase a).read b = if b = a then 0 else m.read b := by
  induction m with
  | nil => simp [Memory.erase]
  | cons c m ih =>
    obtain ⟨k, w⟩ := c
    by_cases hak : a = k
    · subst hak
      simp only [Memory.erase, if_true, ih]
      split <;> simp_all [Memory.read]
    · simp only [Memory.erase, if_neg hak, Memory.read, ih]
      grind

theorem Memory.read_insert (m : Memory) (a b : Nat) (v : Byte) :
    (m.insert a v).read b = if b = a then v else m.read b := by
  induction m with
  | nil => simp [Memory.insert, Memory.read]
  | cons c m ih =>
    obtain ⟨k, w⟩ := c
    simp only [Memory.insert]
    split
    · simp [Memory.read]
    · split
      · subst_vars
        simp only [Memory.read]
        split <;> simp_all
      · simp only [Memory.read, ih]
        grind

/-- Everything a write does to what a memory reads as. -/
theorem Memory.read_write (m : Memory) (a b : Nat) (v : Byte) :
    (m.write a v).read b = if b = a then v else m.read b := by
  unfold Memory.write
  split
  · simp_all [Memory.read_erase]
  · exact Memory.read_insert m a b v

@[simp] theorem Memory.read_write_same (m : Memory) (a : Nat) (v : Byte) : (m.write a v).read a = v := by
  simp [Memory.read_write]

theorem Memory.read_write_ne (m : Memory) (a b : Nat) (v : Byte) (h : b ≠ a) :
    (m.write a v).read b = m.read b := by
  simp [Memory.read_write, h]

/-- What a load leaves: the bytes from its address on, everything else as before. -/
theorem Memory.read_load (vs : List Byte) : ∀ (m : Memory) (a b : Nat),
    (m.load a vs).read b = if a ≤ b ∧ b < a + vs.length then vs.getD (b - a) 0 else m.read b := by
  induction vs with
  | nil => intro m a b; simp [Memory.load]
  | cons v vs ih =>
    intro m a b
    rw [Memory.load, ih, Memory.read_write]
    by_cases hb : b = a
    · subst hb; simp
    · by_cases h : a + 1 ≤ b ∧ b < a + 1 + vs.length
      · have e : b - a = (b - (a + 1)) + 1 := by omega
        have h2 : a ≤ b ∧ b < a + (vs.length + 1) := by omega
        simp [h, h2, e]
      · have h2 : ¬(a ≤ b ∧ b < a + (vs.length + 1)) := by omega
        simp only [List.length_cons]
        rw [if_neg h, if_neg h2, if_neg hb]

theorem Memory.read_fill (f : Nat → Byte) (n : Nat) : ∀ lo b,
    (Memory.fill f lo n).read b = if lo ≤ b ∧ b < lo + n then f b else 0 := by
  induction n with
  | zero => intro lo b; simp [Memory.fill]
  | succ n ih =>
    intro lo b
    unfold Memory.fill
    split <;> rename_i h0
    · rw [ih]; grind
    · simp only [Memory.read, ih]; grind

/-! ### The canonical form -/

theorem Memory.wfFrom_cons (lo hi k : Nat) (w : Byte) (m : Memory) :
    Memory.wfFrom lo hi ((k, w) :: m) = true ↔ lo ≤ k ∧ k < hi ∧ w ≠ 0 ∧ m.wfFrom (k + 1) hi = true := by
  simp [Memory.wfFrom, Bool.and_eq_true, and_assoc]

theorem Memory.wfFrom_mono {lo lo' hi : Nat} {m : Memory} (h : m.wfFrom lo hi = true) (hl : lo' ≤ lo) :
    m.wfFrom lo' hi = true := by
  cases m with
  | nil => rfl
  | cons c m =>
    obtain ⟨k, w⟩ := c
    rw [Memory.wfFrom_cons] at h ⊢
    exact ⟨by omega, h.2⟩

/-- Below its first address a canonical memory reads as 0. -/
theorem Memory.read_below {hi : Nat} {m : Memory} : ∀ {lo : Nat}, m.wfFrom lo hi = true → ∀ a, a < lo →
    m.read a = 0 := by
  induction m with
  | nil => intro lo _ a _; rfl
  | cons c m ih =>
    obtain ⟨k, w⟩ := c
    intro lo h a ha
    rw [Memory.wfFrom_cons] at h
    have hne : a ≠ k := by omega
    simp only [Memory.read, if_neg hne]
    exact ih h.2.2.2 a (by omega)

theorem Memory.wfFrom_erase {hi : Nat} {m : Memory} (a : Nat) : ∀ {lo : Nat}, m.wfFrom lo hi = true →
    (m.erase a).wfFrom lo hi = true := by
  induction m with
  | nil => intro lo _; rfl
  | cons c m ih =>
    obtain ⟨k, w⟩ := c
    intro lo h
    rw [Memory.wfFrom_cons] at h
    unfold Memory.erase
    split
    · exact Memory.wfFrom_mono (ih h.2.2.2) (by omega)
    · rw [Memory.wfFrom_cons]
      exact ⟨h.1, h.2.1, h.2.2.1, ih h.2.2.2⟩

theorem Memory.wfFrom_insert {hi : Nat} {m : Memory} (a : Nat) (v : Byte) (ha : a < hi) (hv : v ≠ 0) :
    ∀ {lo : Nat}, lo ≤ a → m.wfFrom lo hi = true → (m.insert a v).wfFrom lo hi = true := by
  induction m with
  | nil =>
    intro lo hl _
    rw [Memory.insert, Memory.wfFrom_cons]
    exact ⟨hl, ha, hv, rfl⟩
  | cons c m ih =>
    obtain ⟨k, w⟩ := c
    intro lo hl h
    rw [Memory.wfFrom_cons] at h
    unfold Memory.insert
    split
    · rw [Memory.wfFrom_cons, Memory.wfFrom_cons]
      exact ⟨hl, ha, hv, by omega, h.2⟩
    · split
      · subst_vars
        rw [Memory.wfFrom_cons]
        exact ⟨hl, ha, hv, h.2.2.2⟩
      · rw [Memory.wfFrom_cons]
        exact ⟨h.1, h.2.1, h.2.2.1, ih (by omega) h.2.2.2⟩

/-- A write inside the memory keeps the canonical form. -/
theorem Memory.wf_write {size : Nat} {m : Memory} (a : Nat) (v : Byte) (ha : a < size)
    (h : m.wf size = true) : (m.write a v).wf size = true := by
  unfold Memory.write
  split
  · exact Memory.wfFrom_erase a h
  · exact Memory.wfFrom_insert a v ha ‹_› (Nat.zero_le a) h

@[simp] theorem Memory.wf_nil (size : Nat) : Memory.wf size [] = true := rfl

/-- A load inside the memory keeps the canonical form. -/
theorem Memory.wf_load {size : Nat} (vs : List Byte) : ∀ (m : Memory) (a : Nat), a + vs.length ≤ size →
    m.wf size = true → (m.load a vs).wf size = true := by
  induction vs with
  | nil => intro m a _ h; exact h
  | cons v vs ih =>
    intro m a hl h
    simp only [List.length_cons] at hl
    exact ih _ _ (by omega) (Memory.wf_write a v (by omega) h)

theorem Memory.wfFrom_fill (f : Nat → Byte) (n : Nat) : ∀ lo hi, lo + n ≤ hi →
    (Memory.fill f lo n).wfFrom lo hi = true := by
  induction n with
  | zero => intro lo hi _; rfl
  | succ n ih =>
    intro lo hi h
    unfold Memory.fill
    split
    · exact Memory.wfFrom_mono (ih (lo + 1) hi (by omega)) (by omega)
    · rw [Memory.wfFrom_cons]
      exact ⟨Nat.le_refl _, by omega, ‹_›, ih (lo + 1) hi (by omega)⟩

/-- Filling a whole memory gives the canonical form. -/
theorem Memory.wf_fill (f : Nat → Byte) (n : Nat) : (Memory.fill f 0 n).wf n = true :=
  Memory.wfFrom_fill f n 0 n (by omega)

theorem Memory.ext_from {hi : Nat} {m : Memory} : ∀ {m' : Memory} {lo : Nat}, m.wfFrom lo hi = true →
    m'.wfFrom lo hi = true → (∀ a, m.read a = m'.read a) → m = m' := by
  induction m with
  | nil =>
    intro m' lo _ h' e
    cases m' with
    | nil => rfl
    | cons c m' =>
      obtain ⟨k, w⟩ := c
      rw [Memory.wfFrom_cons] at h'
      have := e k
      simp only [Memory.read, if_true] at this
      exact absurd this.symm h'.2.2.1
  | cons c m ih =>
    obtain ⟨k, w⟩ := c
    intro m' lo h h' e
    have h0 := h
    rw [Memory.wfFrom_cons] at h
    cases m' with
    | nil =>
      have := e k
      simp only [Memory.read, if_true] at this
      exact absurd this h.2.2.1
    | cons c' m' =>
      obtain ⟨k', w'⟩ := c'
      rw [Memory.wfFrom_cons] at h'
      have hk : k = k' := by
        rcases Nat.lt_trichotomy k k' with hlt | heq | hgt
        · have := e k
          simp only [Memory.read, if_true, if_neg (Nat.ne_of_lt hlt)] at this
          rw [Memory.read_below h'.2.2.2 k (by omega)] at this
          exact absurd this h.2.2.1
        · exact heq
        · have := e k'
          simp only [Memory.read, if_true, if_neg (Nat.ne_of_lt hgt)] at this
          rw [Memory.read_below h.2.2.2 k' (by omega)] at this
          exact absurd this.symm h'.2.2.1
      subst hk
      have hw : w = w' := by simpa [Memory.read] using e k
      subst hw
      have : m = m' := by
        refine ih h.2.2.2 h'.2.2.2 fun a => ?_
        by_cases ha : a = k
        · subst ha
          rw [Memory.read_below h.2.2.2 a (by omega), Memory.read_below h'.2.2.2 a (by omega)]
        · simpa [Memory.read, ha] using e a
      rw [this]

/-- Equal memories are equal lists: the canonical form is unique. -/
theorem Memory.ext {size : Nat} {m m' : Memory} (h : m.wf size = true) (h' : m'.wf size = true)
    (e : ∀ a, m.read a = m'.read a) : m = m' :=
  Memory.ext_from h h' e

end Sys2Proof.Machine
end

