-- ==== Sys2Proof/Laws/State.lean ====
section
/-! SUPPORT. One lemma per field per named update of State, true by rfl, and the laws of the registers. -/

namespace Sys2Proof.Machine

variable (s : State)

/-! ### Registers -/

@[simp] theorem Regs.get_set_same (g : Regs) (r : Reg) (v : Byte) : (g.set r v).get r = v := by
  cases r <;> rfl

theorem Regs.get_set_ne (g : Regs) (r q : Reg) (v : Byte) (h : q ≠ r) : (g.set r v).get q = g.get q := by
  cases r <;> cases q <;> first | rfl | exact absurd rfl h

theorem Regs.get_set (g : Regs) (r q : Reg) (v : Byte) :
    (g.set r v).get q = if q = r then v else g.get q := by
  cases r <;> cases q <;> rfl

/-- A register file is its four registers. -/
theorem Regs.ext_get (g h : Regs) (e : ∀ r, g.get r = h.get r) : g = h := by
  cases g; cases h
  simp only [Regs.mk.injEq]
  exact ⟨e .r0, e .r1, e .r2, e .r3⟩

@[simp] theorem State.reg_setReg_same (r : Reg) (v : Byte) : (s.setReg r v).reg r = v :=
  Regs.get_set_same _ _ _

theorem State.reg_setReg_ne (r q : Reg) (v : Byte) (h : q ≠ r) : (s.setReg r v).reg q = s.reg q :=
  Regs.get_set_ne _ _ _ _ h

theorem State.reg_setReg (r q : Reg) (v : Byte) :
    (s.setReg r v).reg q = if q = r then v else s.reg q :=
  Regs.get_set _ _ _ _

@[simp] theorem State.reg_setPc (t : Byte) (q : Reg) : (s.setPc t).reg q = s.reg q := rfl

@[simp] theorem State.reg_setZ (b : Bool) (q : Reg) : (s.setZ b).reg q = s.reg q := rfl

@[simp] theorem State.reg_setC (b : Bool) (q : Reg) : (s.setC b).reg q = s.reg q := rfl

@[simp] theorem State.reg_setBp (k : BankNo) (q : Reg) : (s.setBp k).reg q = s.reg q := rfl

@[simp] theorem State.reg_setHalt (q : Reg) : (s.setHalt).reg q = s.reg q := rfl

@[simp] theorem State.reg_setMem (m : Memory) (q : Reg) : (s.setMem m).reg q = s.reg q := rfl

@[simp] theorem State.reg_setDisp (m : Memory) (q : Reg) : (s.setDisp m).reg q = s.reg q := rfl

@[simp] theorem State.reg_setVram (m : Memory) (q : Reg) : (s.setVram m).reg q = s.reg q := rfl

@[simp] theorem State.reg_setFb (m : Memory) (q : Reg) : (s.setFb m).reg q = s.reg q := rfl

/-! ### `setReg` -/

@[simp] theorem State.setReg_regs (r : Reg) (v : Byte) : (s.setReg r v).regs = s.regs.set r v := rfl
@[simp] theorem State.setReg_pc (r : Reg) (v : Byte) : (s.setReg r v).pc = s.pc := rfl
@[simp] theorem State.setReg_sp (r : Reg) (v : Byte) : (s.setReg r v).sp = s.sp := rfl
@[simp] theorem State.setReg_z (r : Reg) (v : Byte) : (s.setReg r v).z = s.z := rfl
@[simp] theorem State.setReg_n (r : Reg) (v : Byte) : (s.setReg r v).n = s.n := rfl
@[simp] theorem State.setReg_c (r : Reg) (v : Byte) : (s.setReg r v).c = s.c := rfl
@[simp] theorem State.setReg_bp (r : Reg) (v : Byte) : (s.setReg r v).bp = s.bp := rfl
@[simp] theorem State.setReg_halt (r : Reg) (v : Byte) : (s.setReg r v).halt = s.halt := rfl
@[simp] theorem State.setReg_mem (r : Reg) (v : Byte) : (s.setReg r v).mem = s.mem := rfl
@[simp] theorem State.setReg_stack (r : Reg) (v : Byte) : (s.setReg r v).stack = s.stack := rfl
@[simp] theorem State.setReg_vram (r : Reg) (v : Byte) : (s.setReg r v).vram = s.vram := rfl
@[simp] theorem State.setReg_fb (r : Reg) (v : Byte) : (s.setReg r v).fb = s.fb := rfl
@[simp] theorem State.setReg_disp (r : Reg) (v : Byte) : (s.setReg r v).disp = s.disp := rfl
@[simp] theorem State.setReg_btn (r : Reg) (v : Byte) : (s.setReg r v).btn = s.btn := rfl
@[simp] theorem State.setReg_image (r : Reg) (v : Byte) : (s.setReg r v).image = s.image := rfl
@[simp] theorem State.setReg_clockReads (r : Reg) (v : Byte) : (s.setReg r v).clockReads = s.clockReads := rfl
@[simp] theorem State.setReg_resets (r : Reg) (v : Byte) : (s.setReg r v).resets = s.resets := rfl

/-! ### `setPc` -/

@[simp] theorem State.setPc_regs (t : Byte) : (s.setPc t).regs = s.regs := rfl
@[simp] theorem State.setPc_pc (t : Byte) : (s.setPc t).pc = t := rfl
@[simp] theorem State.setPc_sp (t : Byte) : (s.setPc t).sp = s.sp := rfl
@[simp] theorem State.setPc_z (t : Byte) : (s.setPc t).z = s.z := rfl
@[simp] theorem State.setPc_n (t : Byte) : (s.setPc t).n = s.n := rfl
@[simp] theorem State.setPc_c (t : Byte) : (s.setPc t).c = s.c := rfl
@[simp] theorem State.setPc_bp (t : Byte) : (s.setPc t).bp = s.bp := rfl
@[simp] theorem State.setPc_halt (t : Byte) : (s.setPc t).halt = s.halt := rfl
@[simp] theorem State.setPc_mem (t : Byte) : (s.setPc t).mem = s.mem := rfl
@[simp] theorem State.setPc_stack (t : Byte) : (s.setPc t).stack = s.stack := rfl
@[simp] theorem State.setPc_vram (t : Byte) : (s.setPc t).vram = s.vram := rfl
@[simp] theorem State.setPc_fb (t : Byte) : (s.setPc t).fb = s.fb := rfl
@[simp] theorem State.setPc_disp (t : Byte) : (s.setPc t).disp = s.disp := rfl
@[simp] theorem State.setPc_btn (t : Byte) : (s.setPc t).btn = s.btn := rfl
@[simp] theorem State.setPc_image (t : Byte) : (s.setPc t).image = s.image := rfl
@[simp] theorem State.setPc_clockReads (t : Byte) : (s.setPc t).clockReads = s.clockReads := rfl
@[simp] theorem State.setPc_resets (t : Byte) : (s.setPc t).resets = s.resets := rfl

/-! ### `setZ` -/

@[simp] theorem State.setZ_regs (b : Bool) : (s.setZ b).regs = s.regs := rfl
@[simp] theorem State.setZ_pc (b : Bool) : (s.setZ b).pc = s.pc := rfl
@[simp] theorem State.setZ_sp (b : Bool) : (s.setZ b).sp = s.sp := rfl
@[simp] theorem State.setZ_z (b : Bool) : (s.setZ b).z = b := rfl
@[simp] theorem State.setZ_n (b : Bool) : (s.setZ b).n = s.n := rfl
@[simp] theorem State.setZ_c (b : Bool) : (s.setZ b).c = s.c := rfl
@[simp] theorem State.setZ_bp (b : Bool) : (s.setZ b).bp = s.bp := rfl
@[simp] theorem State.setZ_halt (b : Bool) : (s.setZ b).halt = s.halt := rfl
@[simp] theorem State.setZ_mem (b : Bool) : (s.setZ b).mem = s.mem := rfl
@[simp] theorem State.setZ_stack (b : Bool) : (s.setZ b).stack = s.stack := rfl
@[simp] theorem State.setZ_vram (b : Bool) : (s.setZ b).vram = s.vram := rfl
@[simp] theorem State.setZ_fb (b : Bool) : (s.setZ b).fb = s.fb := rfl
@[simp] theorem State.setZ_disp (b : Bool) : (s.setZ b).disp = s.disp := rfl
@[simp] theorem State.setZ_btn (b : Bool) : (s.setZ b).btn = s.btn := rfl
@[simp] theorem State.setZ_image (b : Bool) : (s.setZ b).image = s.image := rfl
@[simp] theorem State.setZ_clockReads (b : Bool) : (s.setZ b).clockReads = s.clockReads := rfl
@[simp] theorem State.setZ_resets (b : Bool) : (s.setZ b).resets = s.resets := rfl

/-! ### `setC` -/

@[simp] theorem State.setC_regs (b : Bool) : (s.setC b).regs = s.regs := rfl
@[simp] theorem State.setC_pc (b : Bool) : (s.setC b).pc = s.pc := rfl
@[simp] theorem State.setC_sp (b : Bool) : (s.setC b).sp = s.sp := rfl
@[simp] theorem State.setC_z (b : Bool) : (s.setC b).z = s.z := rfl
@[simp] theorem State.setC_n (b : Bool) : (s.setC b).n = s.n := rfl
@[simp] theorem State.setC_c (b : Bool) : (s.setC b).c = b := rfl
@[simp] theorem State.setC_bp (b : Bool) : (s.setC b).bp = s.bp := rfl
@[simp] theorem State.setC_halt (b : Bool) : (s.setC b).halt = s.halt := rfl
@[simp] theorem State.setC_mem (b : Bool) : (s.setC b).mem = s.mem := rfl
@[simp] theorem State.setC_stack (b : Bool) : (s.setC b).stack = s.stack := rfl
@[simp] theorem State.setC_vram (b : Bool) : (s.setC b).vram = s.vram := rfl
@[simp] theorem State.setC_fb (b : Bool) : (s.setC b).fb = s.fb := rfl
@[simp] theorem State.setC_disp (b : Bool) : (s.setC b).disp = s.disp := rfl
@[simp] theorem State.setC_btn (b : Bool) : (s.setC b).btn = s.btn := rfl
@[simp] theorem State.setC_image (b : Bool) : (s.setC b).image = s.image := rfl
@[simp] theorem State.setC_clockReads (b : Bool) : (s.setC b).clockReads = s.clockReads := rfl
@[simp] theorem State.setC_resets (b : Bool) : (s.setC b).resets = s.resets := rfl

/-! ### `setBp` -/

@[simp] theorem State.setBp_regs (k : BankNo) : (s.setBp k).regs = s.regs := rfl
@[simp] theorem State.setBp_pc (k : BankNo) : (s.setBp k).pc = s.pc := rfl
@[simp] theorem State.setBp_sp (k : BankNo) : (s.setBp k).sp = s.sp := rfl
@[simp] theorem State.setBp_z (k : BankNo) : (s.setBp k).z = s.z := rfl
@[simp] theorem State.setBp_n (k : BankNo) : (s.setBp k).n = s.n := rfl
@[simp] theorem State.setBp_c (k : BankNo) : (s.setBp k).c = s.c := rfl
@[simp] theorem State.setBp_bp (k : BankNo) : (s.setBp k).bp = k := rfl
@[simp] theorem State.setBp_halt (k : BankNo) : (s.setBp k).halt = s.halt := rfl
@[simp] theorem State.setBp_mem (k : BankNo) : (s.setBp k).mem = s.mem := rfl
@[simp] theorem State.setBp_stack (k : BankNo) : (s.setBp k).stack = s.stack := rfl
@[simp] theorem State.setBp_vram (k : BankNo) : (s.setBp k).vram = s.vram := rfl
@[simp] theorem State.setBp_fb (k : BankNo) : (s.setBp k).fb = s.fb := rfl
@[simp] theorem State.setBp_disp (k : BankNo) : (s.setBp k).disp = s.disp := rfl
@[simp] theorem State.setBp_btn (k : BankNo) : (s.setBp k).btn = s.btn := rfl
@[simp] theorem State.setBp_image (k : BankNo) : (s.setBp k).image = s.image := rfl
@[simp] theorem State.setBp_clockReads (k : BankNo) : (s.setBp k).clockReads = s.clockReads := rfl
@[simp] theorem State.setBp_resets (k : BankNo) : (s.setBp k).resets = s.resets := rfl

/-! ### `setHalt` -/

@[simp] theorem State.setHalt_regs : (s.setHalt).regs = s.regs := rfl
@[simp] theorem State.setHalt_pc : (s.setHalt).pc = s.pc := rfl
@[simp] theorem State.setHalt_sp : (s.setHalt).sp = s.sp := rfl
@[simp] theorem State.setHalt_z : (s.setHalt).z = s.z := rfl
@[simp] theorem State.setHalt_n : (s.setHalt).n = s.n := rfl
@[simp] theorem State.setHalt_c : (s.setHalt).c = s.c := rfl
@[simp] theorem State.setHalt_bp : (s.setHalt).bp = s.bp := rfl
@[simp] theorem State.setHalt_halt : (s.setHalt).halt = true := rfl
@[simp] theorem State.setHalt_mem : (s.setHalt).mem = s.mem := rfl
@[simp] theorem State.setHalt_stack : (s.setHalt).stack = s.stack := rfl
@[simp] theorem State.setHalt_vram : (s.setHalt).vram = s.vram := rfl
@[simp] theorem State.setHalt_fb : (s.setHalt).fb = s.fb := rfl
@[simp] theorem State.setHalt_disp : (s.setHalt).disp = s.disp := rfl
@[simp] theorem State.setHalt_btn : (s.setHalt).btn = s.btn := rfl
@[simp] theorem State.setHalt_image : (s.setHalt).image = s.image := rfl
@[simp] theorem State.setHalt_clockReads : (s.setHalt).clockReads = s.clockReads := rfl
@[simp] theorem State.setHalt_resets : (s.setHalt).resets = s.resets := rfl

/-! ### `setMem` -/

@[simp] theorem State.setMem_regs (m : Memory) : (s.setMem m).regs = s.regs := rfl
@[simp] theorem State.setMem_pc (m : Memory) : (s.setMem m).pc = s.pc := rfl
@[simp] theorem State.setMem_sp (m : Memory) : (s.setMem m).sp = s.sp := rfl
@[simp] theorem State.setMem_z (m : Memory) : (s.setMem m).z = s.z := rfl
@[simp] theorem State.setMem_n (m : Memory) : (s.setMem m).n = s.n := rfl
@[simp] theorem State.setMem_c (m : Memory) : (s.setMem m).c = s.c := rfl
@[simp] theorem State.setMem_bp (m : Memory) : (s.setMem m).bp = s.bp := rfl
@[simp] theorem State.setMem_halt (m : Memory) : (s.setMem m).halt = s.halt := rfl
@[simp] theorem State.setMem_mem (m : Memory) : (s.setMem m).mem = m := rfl
@[simp] theorem State.setMem_stack (m : Memory) : (s.setMem m).stack = s.stack := rfl
@[simp] theorem State.setMem_vram (m : Memory) : (s.setMem m).vram = s.vram := rfl
@[simp] theorem State.setMem_fb (m : Memory) : (s.setMem m).fb = s.fb := rfl
@[simp] theorem State.setMem_disp (m : Memory) : (s.setMem m).disp = s.disp := rfl
@[simp] theorem State.setMem_btn (m : Memory) : (s.setMem m).btn = s.btn := rfl
@[simp] theorem State.setMem_image (m : Memory) : (s.setMem m).image = s.image := rfl
@[simp] theorem State.setMem_clockReads (m : Memory) : (s.setMem m).clockReads = s.clockReads := rfl
@[simp] theorem State.setMem_resets (m : Memory) : (s.setMem m).resets = s.resets := rfl

/-! ### `setDisp` -/

@[simp] theorem State.setDisp_regs (m : Memory) : (s.setDisp m).regs = s.regs := rfl
@[simp] theorem State.setDisp_pc (m : Memory) : (s.setDisp m).pc = s.pc := rfl
@[simp] theorem State.setDisp_sp (m : Memory) : (s.setDisp m).sp = s.sp := rfl
@[simp] theorem State.setDisp_z (m : Memory) : (s.setDisp m).z = s.z := rfl
@[simp] theorem State.setDisp_n (m : Memory) : (s.setDisp m).n = s.n := rfl
@[simp] theorem State.setDisp_c (m : Memory) : (s.setDisp m).c = s.c := rfl
@[simp] theorem State.setDisp_bp (m : Memory) : (s.setDisp m).bp = s.bp := rfl
@[simp] theorem State.setDisp_halt (m : Memory) : (s.setDisp m).halt = s.halt := rfl
@[simp] theorem State.setDisp_mem (m : Memory) : (s.setDisp m).mem = s.mem := rfl
@[simp] theorem State.setDisp_stack (m : Memory) : (s.setDisp m).stack = s.stack := rfl
@[simp] theorem State.setDisp_vram (m : Memory) : (s.setDisp m).vram = s.vram := rfl
@[simp] theorem State.setDisp_fb (m : Memory) : (s.setDisp m).fb = s.fb := rfl
@[simp] theorem State.setDisp_disp (m : Memory) : (s.setDisp m).disp = m := rfl
@[simp] theorem State.setDisp_btn (m : Memory) : (s.setDisp m).btn = s.btn := rfl
@[simp] theorem State.setDisp_image (m : Memory) : (s.setDisp m).image = s.image := rfl
@[simp] theorem State.setDisp_clockReads (m : Memory) : (s.setDisp m).clockReads = s.clockReads := rfl
@[simp] theorem State.setDisp_resets (m : Memory) : (s.setDisp m).resets = s.resets := rfl

/-! ### `setVram` -/

@[simp] theorem State.setVram_regs (m : Memory) : (s.setVram m).regs = s.regs := rfl
@[simp] theorem State.setVram_pc (m : Memory) : (s.setVram m).pc = s.pc := rfl
@[simp] theorem State.setVram_sp (m : Memory) : (s.setVram m).sp = s.sp := rfl
@[simp] theorem State.setVram_z (m : Memory) : (s.setVram m).z = s.z := rfl
@[simp] theorem State.setVram_n (m : Memory) : (s.setVram m).n = s.n := rfl
@[simp] theorem State.setVram_c (m : Memory) : (s.setVram m).c = s.c := rfl
@[simp] theorem State.setVram_bp (m : Memory) : (s.setVram m).bp = s.bp := rfl
@[simp] theorem State.setVram_halt (m : Memory) : (s.setVram m).halt = s.halt := rfl
@[simp] theorem State.setVram_mem (m : Memory) : (s.setVram m).mem = s.mem := rfl
@[simp] theorem State.setVram_stack (m : Memory) : (s.setVram m).stack = s.stack := rfl
@[simp] theorem State.setVram_vram (m : Memory) : (s.setVram m).vram = m := rfl
@[simp] theorem State.setVram_fb (m : Memory) : (s.setVram m).fb = s.fb := rfl
@[simp] theorem State.setVram_disp (m : Memory) : (s.setVram m).disp = s.disp := rfl
@[simp] theorem State.setVram_btn (m : Memory) : (s.setVram m).btn = s.btn := rfl
@[simp] theorem State.setVram_image (m : Memory) : (s.setVram m).image = s.image := rfl
@[simp] theorem State.setVram_clockReads (m : Memory) : (s.setVram m).clockReads = s.clockReads := rfl
@[simp] theorem State.setVram_resets (m : Memory) : (s.setVram m).resets = s.resets := rfl

/-! ### `setFb` -/

@[simp] theorem State.setFb_regs (m : Memory) : (s.setFb m).regs = s.regs := rfl
@[simp] theorem State.setFb_pc (m : Memory) : (s.setFb m).pc = s.pc := rfl
@[simp] theorem State.setFb_sp (m : Memory) : (s.setFb m).sp = s.sp := rfl
@[simp] theorem State.setFb_z (m : Memory) : (s.setFb m).z = s.z := rfl
@[simp] theorem State.setFb_n (m : Memory) : (s.setFb m).n = s.n := rfl
@[simp] theorem State.setFb_c (m : Memory) : (s.setFb m).c = s.c := rfl
@[simp] theorem State.setFb_bp (m : Memory) : (s.setFb m).bp = s.bp := rfl
@[simp] theorem State.setFb_halt (m : Memory) : (s.setFb m).halt = s.halt := rfl
@[simp] theorem State.setFb_mem (m : Memory) : (s.setFb m).mem = s.mem := rfl
@[simp] theorem State.setFb_stack (m : Memory) : (s.setFb m).stack = s.stack := rfl
@[simp] theorem State.setFb_vram (m : Memory) : (s.setFb m).vram = s.vram := rfl
@[simp] theorem State.setFb_fb (m : Memory) : (s.setFb m).fb = m := rfl
@[simp] theorem State.setFb_disp (m : Memory) : (s.setFb m).disp = s.disp := rfl
@[simp] theorem State.setFb_btn (m : Memory) : (s.setFb m).btn = s.btn := rfl
@[simp] theorem State.setFb_image (m : Memory) : (s.setFb m).image = s.image := rfl
@[simp] theorem State.setFb_clockReads (m : Memory) : (s.setFb m).clockReads = s.clockReads := rfl
@[simp] theorem State.setFb_resets (m : Memory) : (s.setFb m).resets = s.resets := rfl

end Sys2Proof.Machine
end

