-- ==== Sys2Proof/Laws/Ops.lean ====
section
/-! SUPPORT. For each shared operation, once, everything it can do. -/

namespace Sys2Proof.Machine

variable (s : State)

/-! ### The data window -/

/-- With the model's parameters, the addresses that reach `MEM` (20_memory.md R77). -/
theorem windowOf_memory (a : Byte) :
    windowOf config a = .memory ↔ a.toNat < 0xF0 ∨ 0xFC < a.toNat := by
  revert a; decide

/-- The index of a window address lies in `MEM`. -/
theorem memIndex_lt (b : BankNo) (a : Byte) : memIndex b a < 1024 := by
  unfold memIndex; omega

/-- Different (bank, address) pairs are different bytes of `MEM`. -/
theorem memIndex_inj (b b' : BankNo) (a a' : Byte) : memIndex b a = memIndex b' a' ↔ b = b' ∧ a = a' := by
  unfold memIndex
  constructor
  · intro h
    have := a.isLt
    have := a'.isLt
    exact ⟨BitVec.eq_of_toNat_eq (by omega), BitVec.eq_of_toNat_eq (by omega)⟩
  · rintro ⟨rfl, rfl⟩; rfl

@[simp] theorem takeBank_eq : takeBank s = (s.bp, s.setBp 0) := rfl

/-- A read of a `MEM` address (20_memory.md R75). -/
theorem memRead_memory (a : Byte) (h : windowOf config a = .memory) :
    memRead a s = (s.mem.read (memIndex s.bp a), s.setBp 0) := by
  simp [memRead, h]

/-- Whatever it reads, a data read changes only `BP`, which it clears, and how often the clock was sampled. -/
theorem memRead_state (a : Byte) :
    ∃ k, s.clockReads ≤ k ∧ k ≤ s.clockReads + 1 ∧ (memRead a s).2 = { s with bp := 0, clockReads := k } := by
  unfold memRead
  cases windowOf config a with
  | hour | minute | second => exact ⟨s.clockReads + 1, by omega, by omega, rfl⟩
  | display | buttons | bank | memory => exact ⟨s.clockReads, by omega, by omega, rfl⟩

/-- A write of a `MEM` address (20_memory.md R76). -/
theorem memWrite_memory (a v : Byte) (h : windowOf config a = .memory) :
    memWrite a v s = { s with bp := 0, mem := s.mem.write (memIndex s.bp a) v } := by
  simp [memWrite, h]
  rfl

/-- A write of a display address (20_memory.md R76, R82). -/
theorem memWrite_display (a v : Byte) (i : Nat) (h : windowOf config a = .display i) :
    memWrite a v s = { s with bp := 0, disp := s.disp.write i v } := by
  simp [memWrite, h]
  rfl

/-- A write of a read-only I/O address is dropped (20_memory.md R76). -/
theorem memWrite_dropped (a v : Byte) (h : windowOf config a ≠ .memory)
    (hd : ∀ i, windowOf config a ≠ .display i) : memWrite a v s = { s with bp := 0 } := by
  unfold memWrite
  cases hw : windowOf config a with
  | memory => exact absurd hw h
  | display i => exact absurd hw (hd i)
  | buttons | hour | minute | second | bank => rfl

/-- Everything a data write can do. -/
theorem memWrite_cases (a v : Byte) :
    (windowOf config a = .memory ∧
      memWrite a v s = { s with bp := 0, mem := s.mem.write (memIndex s.bp a) v }) ∨
    (∃ i, windowOf config a = .display i ∧ memWrite a v s = { s with bp := 0, disp := s.disp.write i v }) ∨
    memWrite a v s = { s with bp := 0 } := by
  cases hw : windowOf config a with
  | memory => exact .inl ⟨rfl, memWrite_memory s a v hw⟩
  | display i => exact .inr (.inl ⟨i, rfl, memWrite_display s a v i hw⟩)
  | buttons | hour | minute | second | bank =>
    exact .inr (.inr (memWrite_dropped s a v (by simp [hw]) (by simp [hw])))

/-- What a data write does to a fetch (20_memory.md R80, R93): it is seen where it goes to `MEM`, in bank 0. -/
theorem fetchByte_memWrite (a v b : Byte) :
    fetchByte (memWrite a v s) b =
      if windowOf config a = .memory ∧ s.bp = 0 ∧ b = a then v else fetchByte s b := by
  rcases memWrite_cases s a v with ⟨hw, h⟩ | ⟨_, hw, h⟩ | h
  · rw [h]
    simp only [fetchByte, hw, true_and, Memory.read_write, memIndex_inj, eq_comm (a := (0 : BankNo))]
  · rw [h, hw]
    simp [fetchByte]
  · by_cases hw : windowOf config a = .memory
    · rw [memWrite_memory s a v hw]
      simp only [fetchByte, hw, true_and, Memory.read_write, memIndex_inj, eq_comm (a := (0 : BankNo))]
    · rw [h]
      simp [fetchByte, hw]

/-- A display index is one of the display's bytes. -/
theorem windowOf_display_lt (a : Byte) (i : Nat) (h : windowOf config a = .display i) : i < config.dispLen := by
  unfold windowOf at h
  split at h
  · simp only [Window.display.injEq] at h; omega
  · repeat' split at h
    all_goals simp at h

/-- What BCPY can change: `BP`, `MEM`, `DISP` and how often the clock was sampled (20_memory.md R95). -/
theorem copyBytes_state (n : Nat) : ∀ (src dst : Byte) (s : State), ∃ b m d k,
    copyBytes n src dst s = { s with bp := b, mem := m, disp := d, clockReads := k } := by
  induction n with
  | zero => intro src dst s; exact ⟨s.bp, s.mem, s.disp, s.clockReads, rfl⟩
  | succ n ih =>
    intro src dst s
    obtain ⟨k, _, _, hr⟩ := memRead_state s src
    rw [copyBytes, hr]
    obtain ⟨b, m, d, k', e⟩ := ih (src + 1) (dst + 1) (memWrite dst (memRead src s).1 { s with bp := 0, clockReads := k })
    rw [e]
    rcases memWrite_cases { s with bp := 0, clockReads := k } dst (memRead src s).1 with
      ⟨_, hw⟩ | ⟨_, _, hw⟩ | hw
    all_goals exact ⟨b, m, d, k', by rw [hw]⟩

/-! ### The stack -/

/-- Everything a push does (10_state.md R40). -/
theorem push_eq (v : Byte) : push v s = { s with stack := s.stack.write s.sp.toNat v, sp := s.sp - 1 } := rfl

/-- Everything a pop does (10_state.md R41). -/
theorem pop_eq : pop s = (s.stack.read (s.sp + 1).toNat, { s with sp := s.sp + 1 }) := rfl

@[simp] theorem reg_push (v : Byte) (r : Reg) : (push v s).reg r = s.reg r := rfl

/-- A pop takes back what was pushed, and `sp` with it. -/
theorem pop_push (v : Byte) :
    pop (push v s) = (v, { s with stack := s.stack.write s.sp.toNat v }) := by
  simp [pop_eq, push_eq]

/-! ### Pixels -/

/-- Everything plotting does to what a video memory reads as (49_system.md R265, R266). -/
theorem read_plot (m : Memory) (x y : Byte) (col : BitVec 4) (a : Nat) :
    (plot m x y col).read a =
      if (x.toNat ≤ 15 ∧ y.toNat ≤ 15) ∧ a = pixelOffset x.toNat y.toNat then
        mergePixel (m.read a) x.toNat col
      else m.read a := by
  unfold plot
  by_cases h : x.toNat ≤ 15 ∧ y.toNat ≤ 15
  · simp only [h, and_self, if_true, true_and, Memory.read_write]
    by_cases ha : a = pixelOffset x.toNat y.toNat <;> simp [ha]
  · rw [if_neg h, if_neg (fun h' => h h'.1)]

/-- A pixel in range lies in its 128-byte memory (10_state.md R47). -/
theorem pixelOffset_lt (x y : Nat) (hx : x ≤ 15) (hy : y ≤ 15) : pixelOffset x y < 128 := by
  unfold pixelOffset; omega

/-! ### Reserved words -/

/-- The model's policy is the no-operation (30_encoding.md R127). -/
theorem onReserved_eq (g : Reserved) : onReserved g s = .next s := rfl

end Sys2Proof.Machine
end

