-- ==== Sys2Proof/Laws/PerInstr.lean ====
section
/-! SUPPORT. Per-instruction families: a statement about the syntax of one instruction, and its lemma for every
constructor of Instr. -/

namespace Sys2Proof.Laws.Canonical

/-- The don't-care bits of an instruction's row (30_encoding.md R121, R125), field by field. -/
def dontCare : Instr → Word
  | .nop => pack 0x0 3 3 0x00
  | .retSys => pack 0x0 3 3 0x00
  | .flip => pack 0x0 3 3 0x00
  | .clrf => pack 0x0 3 3 0x00
  | .clrv => pack 0x0 3 3 0x00
  | .plotf => pack 0x0 3 3 0x00
  | .plotv => pack 0x0 3 3 0x00
  | .bcpy => pack 0x0 3 3 0x00
  | .vpeek => pack 0x0 3 3 0x00
  | .vpoke => pack 0x0 3 3 0x00
  | .hlt => pack 0x0 3 3 0x00
  | .movRR _ _ => pack 0x0 0 0 0xFF
  | .movRI _ _ => pack 0x0 0 3 0x00
  | .add _ _ => pack 0x0 0 0 0x00
  | .sub _ _ => pack 0x0 0 0 0x00
  | .mul _ _ => pack 0x0 0 0 0x00
  | .div _ _ => pack 0x0 0 0 0x00
  | .andRR _ _ => pack 0x0 0 0 0x00
  | .orRR _ _ => pack 0x0 0 0 0x00
  | .xorRR _ _ => pack 0x0 0 0 0x00
  | .not _ => pack 0x0 0 3 0x00
  | .shl _ => pack 0x0 0 3 0x00
  | .shr _ => pack 0x0 0 3 0x00
  | .rol _ => pack 0x0 0 3 0x00
  | .ror _ => pack 0x0 0 3 0x00
  | .andRI _ _ => pack 0x0 0 0 0x00
  | .orRI _ _ => pack 0x0 0 0 0x00
  | .xorRI _ _ => pack 0x0 0 0 0x00
  | .ldInd _ _ => pack 0x0 0 0 0xFC
  | .ldAbs _ _ => pack 0x0 0 0 0x00
  | .stInd _ _ => pack 0x0 0 0 0xFC
  | .stAbs _ _ => pack 0x0 0 0 0x00
  | .cmpRR _ _ => pack 0x0 0 0 0xFF
  | .cmpRI _ _ => pack 0x0 0 3 0x00
  | .jmp _ => pack 0x0 3 3 0x00
  | .jz _ => pack 0x0 3 2 0x00
  | .jnz _ => pack 0x0 3 2 0x00
  | .jc _ => pack 0x0 3 3 0x00
  | .call _ => pack 0x0 3 2 0x00
  | .ret => pack 0x0 3 2 0xFF
  | .push _ => pack 0x0 0 3 0x00
  | .pop _ => pack 0x0 0 3 0x00
  | .pusha => pack 0x0 3 3 0x00
  | .popa => pack 0x0 3 3 0x00
  | .inc _ => pack 0x0 0 2 0xFF
  | .dec _ => pack 0x0 0 2 0xFF
  | .bank _ => pack 0x0 3 3 0xFC

/-- The encoder is canonical: "The canonical encoding ... has every don't-care bit 0" (30_encoding.md R125). -/
def Statement (i : Instr) : Prop := encode i &&& dontCare i = 0

/-- Two packed words have no bit in common when their fields have none. -/
theorem and_zero {op op' : BitVec 4} {a a' b b' : BitVec 2} {lo lo' : Byte} (h : op &&& op' = 0)
    (ha : a &&& a' = 0) (hb : b &&& b' = 0) (hl : lo &&& lo' = 0) :
    pack op a b lo &&& pack op' a' b' lo' = 0 := by
  rw [pack_and, h, ha, hb, hl]
  decide

theorem nop : Statement .nop := and_zero (by simp) (by simp) (by simp) (by simp)

theorem retSys : Statement .retSys := and_zero (by simp) (by simp) (by simp) (by simp)

theorem flip : Statement .flip := and_zero (by simp) (by simp) (by simp) (by simp)

theorem clrf : Statement .clrf := and_zero (by simp) (by simp) (by simp) (by simp)

theorem clrv : Statement .clrv := and_zero (by simp) (by simp) (by simp) (by simp)

theorem plotf : Statement .plotf := and_zero (by simp) (by simp) (by simp) (by simp)

theorem plotv : Statement .plotv := and_zero (by simp) (by simp) (by simp) (by simp)

theorem bcpy : Statement .bcpy := and_zero (by simp) (by simp) (by simp) (by simp)

theorem vpeek : Statement .vpeek := and_zero (by simp) (by simp) (by simp) (by simp)

theorem vpoke : Statement .vpoke := and_zero (by simp) (by simp) (by simp) (by simp)

theorem hlt : Statement .hlt := and_zero (by simp) (by simp) (by simp) (by simp)

theorem movRR (rd rs : Reg) : Statement (.movRR rd rs) := and_zero (by simp) (by simp) (by simp) (by simp)

theorem movRI (rd : Reg) (imm : Byte) : Statement (.movRI rd imm) := and_zero (by simp) (by simp) (by simp) (by simp)

theorem add (rd rs : Reg) : Statement (.add rd rs) := and_zero (by simp) (by simp) (by simp) (by simp)

theorem sub (rd rs : Reg) : Statement (.sub rd rs) := and_zero (by simp) (by simp) (by simp) (by simp)

theorem mul (rd rs : Reg) : Statement (.mul rd rs) := and_zero (by simp) (by simp) (by simp) (by simp)

theorem div (rd rs : Reg) : Statement (.div rd rs) := and_zero (by simp) (by simp) (by simp) (by simp)

theorem andRR (rd rs : Reg) : Statement (.andRR rd rs) := and_zero (by simp) (by simp) (by simp) (by simp)

theorem orRR (rd rs : Reg) : Statement (.orRR rd rs) := and_zero (by simp) (by simp) (by simp) (by simp)

theorem xorRR (rd rs : Reg) : Statement (.xorRR rd rs) := and_zero (by simp) (by simp) (by simp) (by simp)

theorem not (rd : Reg) : Statement (.not rd) := and_zero (by simp) (by simp) (by simp) (by simp)

theorem shl (rd : Reg) : Statement (.shl rd) := and_zero (by simp) (by simp) (by simp) (by simp)

theorem shr (rd : Reg) : Statement (.shr rd) := and_zero (by simp) (by simp) (by simp) (by simp)

theorem rol (rd : Reg) : Statement (.rol rd) := and_zero (by simp) (by simp) (by simp) (by simp)

theorem ror (rd : Reg) : Statement (.ror rd) := and_zero (by simp) (by simp) (by simp) (by simp)

theorem andRI (rd : Reg) (imm : Byte) : Statement (.andRI rd imm) := and_zero (by simp) (by simp) (by simp) (by simp)

theorem orRI (rd : Reg) (imm : Byte) : Statement (.orRI rd imm) := and_zero (by simp) (by simp) (by simp) (by simp)

theorem xorRI (rd : Reg) (imm : Byte) : Statement (.xorRI rd imm) := and_zero (by simp) (by simp) (by simp) (by simp)

theorem ldInd (rd ra : Reg) : Statement (.ldInd rd ra) := and_zero (by simp) (by simp) (by simp) (by cases ra <;> decide)

theorem ldAbs (rd : Reg) (addr : Byte) : Statement (.ldAbs rd addr) := and_zero (by simp) (by simp) (by simp) (by simp)

theorem stInd (rd ra : Reg) : Statement (.stInd rd ra) := and_zero (by simp) (by simp) (by simp) (by cases ra <;> decide)

theorem stAbs (rd : Reg) (addr : Byte) : Statement (.stAbs rd addr) := and_zero (by simp) (by simp) (by simp) (by simp)

theorem cmpRR (rd rs : Reg) : Statement (.cmpRR rd rs) := and_zero (by simp) (by simp) (by simp) (by simp)

theorem cmpRI (rd : Reg) (imm : Byte) : Statement (.cmpRI rd imm) := and_zero (by simp) (by simp) (by simp) (by simp)

theorem jmp (addr : Byte) : Statement (.jmp addr) := and_zero (by simp) (by simp) (by simp) (by simp)

theorem jz (addr : Byte) : Statement (.jz addr) := and_zero (by simp) (by simp) (by simp) (by simp)

theorem jnz (addr : Byte) : Statement (.jnz addr) := and_zero (by simp) (by simp) (by simp) (by simp)

theorem jc (addr : Byte) : Statement (.jc addr) := and_zero (by simp) (by simp) (by simp) (by simp)

theorem call (addr : Byte) : Statement (.call addr) := and_zero (by simp) (by simp) (by simp) (by simp)

theorem ret : Statement .ret := and_zero (by simp) (by simp) (by simp) (by simp)

theorem push (rd : Reg) : Statement (.push rd) := and_zero (by simp) (by simp) (by simp) (by simp)

theorem pop (rd : Reg) : Statement (.pop rd) := and_zero (by simp) (by simp) (by simp) (by simp)

theorem pusha : Statement .pusha := and_zero (by simp) (by simp) (by simp) (by simp)

theorem popa : Statement .popa := and_zero (by simp) (by simp) (by simp) (by simp)

theorem inc (rd : Reg) : Statement (.inc rd) := and_zero (by simp) (by simp) (by simp) (by simp)

theorem dec (rd : Reg) : Statement (.dec rd) := and_zero (by simp) (by simp) (by simp) (by simp)

theorem bank (k : BankNo) : Statement (.bank k) := and_zero (by simp) (by simp) (by simp) (by revert k; decide)

end Sys2Proof.Laws.Canonical
end

