-- ==== Sys2Proof/Tests/Slice0.lean ====
section
/-! SUPPORT. The model's own tests. Expected values come from the encodings of 30_encoding.md R121 and from the
vectors of 95_test_vectors.md (their names are quoted), never from a run of the model. -/

namespace Sys2Proof.Tests

open Sys2Proof.Machine

/-! ### Well-formedness refuses each ill-formed term -/

theorem test_wf_config : config.wf = true := by decide

theorem test_wf_refuses_wrapping_display :
    ({ config with ioDispBase := 0xFE } : Config).displayFits = false ∧
    ({ config with ioDispBase := 0xFE } : Config).wf = false := by decide

theorem test_wf_refuses_equal_addresses :
    ({ config with ioHour := 0xF8 } : Config).addrsDistinct = false ∧
    ({ config with ioHour := 0xF8 } : Config).wf = false := by decide

theorem test_wf_refuses_address_in_display :
    ({ config with ioBtn := 0xF7 } : Config).displayApart = false ∧
    ({ config with ioBtn := 0xF7 } : Config).wf = false := by decide

theorem test_wf_refuses_long_image :
    ({ config with progMax := 257 } : Config).imageFits = false ∧
    ({ config with progMax := 257 } : Config).wf = false := by decide

/-- Every term of `Instr` is well-formed: the operand types admit what the encoding admits. -/
theorem test_wf_instr : (Instr.bank 3).wf = true ∧ (Instr.ldAbs .r3 0xFF).wf = true := by decide

theorem test_wf_memory_refuses :
    Memory.wf 128 [(5, 1), (5, 2)] = false ∧ Memory.wf 128 [(6, 1), (5, 2)] = false ∧
    Memory.wf 128 [(5, 0)] = false ∧ Memory.wf 128 [(128, 1)] = false ∧
    Memory.wf 128 [(5, 1), (127, 2)] = true := by decide

theorem test_wf_state_refuses_negative : ({ State.reset with n := true } : State).wf = false := by decide

/-! ### Every constructor's word, written out bit by bit: opcode, first register, second register, low byte -/

theorem test_decode_system :
    decodeWord 0b0000000000000000 = .instr .nop ∧
    decodeWord 0b0000000000000001 = .instr .retSys ∧
    decodeWord 0b0000000000000010 = .instr .flip ∧
    decodeWord 0b0000000000000011 = .instr .clrf ∧
    decodeWord 0b0000000000000100 = .instr .clrv ∧
    decodeWord 0b0000000000000101 = .instr .plotf ∧
    decodeWord 0b0000000000000110 = .instr .plotv ∧
    decodeWord 0b0000000000000111 = .instr .bcpy ∧
    decodeWord 0b0000000000001000 = .instr .vpeek ∧
    decodeWord 0b0000000000001001 = .instr .vpoke ∧
    decodeWord 0b0000000000001010 = .instr .hlt := by decide

theorem test_decode_move :
    decodeWord 0b0001100100000000 = .instr (.movRR .r2 .r1) ∧
    decodeWord 0b0010110010000001 = .instr (.movRI .r3 0x81) := by decide

theorem test_decode_arith :
    decodeWord 0b0011011000000000 = .instr (.add .r1 .r2) ∧
    decodeWord 0b0011011000000001 = .instr (.sub .r1 .r2) ∧
    decodeWord 0b0011011000000010 = .instr (.mul .r1 .r2) ∧
    decodeWord 0b0011011000000011 = .instr (.div .r1 .r2) := by decide

theorem test_decode_logic :
    decodeWord 0b0100110100000000 = .instr (.andRR .r3 .r1) ∧
    decodeWord 0b0100110100000001 = .instr (.orRR .r3 .r1) ∧
    decodeWord 0b0100110100000010 = .instr (.xorRR .r3 .r1) ∧
    decodeWord 0b0100110000000011 = .instr (.not .r3) ∧
    decodeWord 0b0100100000000100 = .instr (.shl .r2) ∧
    decodeWord 0b0100100000000101 = .instr (.shr .r2) ∧
    decodeWord 0b0100100000000110 = .instr (.rol .r2) ∧
    decodeWord 0b0100100000000111 = .instr (.ror .r2) ∧
    decodeWord 0b0101010011110001 = .instr (.andRI .r1 0xF1) ∧
    decodeWord 0b0101010111110001 = .instr (.orRI .r1 0xF1) ∧
    decodeWord 0b0101011011110001 = .instr (.xorRI .r1 0xF1) := by decide

theorem test_decode_loadstore :
    decodeWord 0b0110100000000011 = .instr (.ldInd .r2 .r3) ∧
    decodeWord 0b0110100111000011 = .instr (.ldAbs .r2 0xC3) ∧
    decodeWord 0b0110101000000011 = .instr (.stInd .r2 .r3) ∧
    decodeWord 0b0110101111000011 = .instr (.stAbs .r2 0xC3) := by decide

theorem test_decode_compare :
    decodeWord 0b0111011100000000 = .instr (.cmpRR .r1 .r3) ∧
    decodeWord 0b1000010010100000 = .instr (.cmpRI .r1 0xA0) := by decide

theorem test_decode_jump :
    decodeWord 0b1001000010000010 = .instr (.jmp 0x82) ∧
    decodeWord 0b1010000010000010 = .instr (.jz 0x82) ∧
    decodeWord 0b1010000110000010 = .instr (.jnz 0x82) ∧
    decodeWord 0b1011000010000010 = .instr (.jc 0x82) := by decide

theorem test_decode_callstack :
    decodeWord 0b1100000010000010 = .instr (.call 0x82) ∧
    decodeWord 0b1100000100000000 = .instr .ret ∧
    decodeWord 0b1101110000000000 = .instr (.push .r3) ∧
    decodeWord 0b1101110000000001 = .instr (.pop .r3) ∧
    decodeWord 0b1101000000000010 = .instr .pusha ∧
    decodeWord 0b1101000000000011 = .instr .popa := by decide

theorem test_decode_incdec_bank :
    decodeWord 0b1110010000000000 = .instr (.inc .r1) ∧
    decodeWord 0b1110010100000000 = .instr (.dec .r1) ∧
    decodeWord 0b1111000000000011 = .instr (.bank 3) := by decide

/-- One word of each group of 30_encoding.md R126 is rejected by name. -/
theorem test_decode_reserved :
    decodeWord 0x000B = .reserved .sys ∧ decodeWord 0x3004 = .reserved .arith ∧
    decodeWord 0x4008 = .reserved .logic ∧ decodeWord 0x5300 = .reserved .logicImm ∧
    decodeWord 0xD004 = .reserved .stack := by decide

/-- Don't-care bits set: V-MOV-5, V-MEM-5, V-JMP-9, V-JMP-10, V-BNK-3, V-SYS-2. -/
theorem test_decode_dont_care :
    decodeWord 0x13FF = .instr (.movRR .r0 .r3) ∧ decodeWord 0x6AFD = .instr (.stInd .r2 .r1) ∧
    decodeWord 0xAE20 = .instr (.jz 0x20) ∧ decodeWord 0xAF20 = .instr (.jnz 0x20) ∧
    decodeWord 0xF0FE = .instr (.bank 2) ∧ decodeWord 0x0F00 = .instr .nop := by decide

theorem test_table_word :
    decodeTableWord 16 0x2005 = some (.movRI .r0 5) ∧ decodeTableWord 16 0x3004 = none := by decide

/-- The placed word is the one the very next step runs. -/
theorem test_with_fetch_word :
    fetchDecode (State.reset.withFetchWord 16 0x2005) = .instr (.movRI .r0 5) := by decide

/-! ### One step per vector of 95_test_vectors.md -/

/-- A cold machine with these registers. -/
def file (a b c d : Byte) : State := { State.reset with regs := ⟨a, b, c, d⟩ }

/-- The state after one step over this word, if there is one. -/
def after (hi lo : Byte) (s : State) : Option State :=
  match step (placeAtPc s hi lo) with
  | .next t => some t
  | .fault _ => none
  | .refused _ => none

/-- Registers, `Z` and `C`. -/
def zc (s : State) : Regs × Bool × Bool := (s.regs, s.z, s.c)

/-- V-MOV-5. -/
theorem test_mov_rr_dont_care :
    (after 0x13 0xFF (file 0 0 0 9)).map zc = some (⟨9, 0, 0, 9⟩, false, false) := by decide

/-- V-MOV-2. -/
theorem test_mov_ri_zero_sets_no_flag :
    (after 0x2C 0x00 { file 0 0 0 0x7E with c := true }).map zc = some (⟨0, 0, 0, 0⟩, false, true) := by decide

/-- V-ADD-2. -/
theorem test_add_carry :
    (after 0x31 0x00 (file 0x80 0x80 0 0)).map zc = some (⟨0, 0x80, 0, 0⟩, true, true) := by decide

/-- V-ADD-5. -/
theorem test_add_no_carry_in :
    (after 0x31 0x00 { file 0 0 0 0 with c := true }).map zc = some (⟨0, 0, 0, 0⟩, true, false) := by decide

/-- V-SUB-1. -/
theorem test_sub_borrow :
    (after 0x31 0x01 (file 3 5 0 0)).map zc = some (⟨0xFE, 5, 0, 0⟩, false, true) := by decide

/-- V-SUB-3. -/
theorem test_sub_equal :
    (after 0x31 0x01 { file 5 5 0 0 with c := true }).map zc = some (⟨0, 5, 0, 0⟩, true, false) := by decide

/-- V-MUL-1. -/
theorem test_mul_full :
    (after 0x3B 0x02 { file 0 0 0xFF 0xFF with c := true }).map
      zc = some (⟨0xFE, 1, 0xFF, 0xFF⟩, false, false) := by decide

/-- V-MUL-2. -/
theorem test_mul_low_byte_zero :
    (after 0x31 0x02 (file 0x10 0x10 0 0)).map zc = some (⟨1, 0, 0, 0⟩, false, false) := by decide

/-- V-DIV-6. -/
theorem test_div_reads_before_writes :
    (after 0x34 0x03 (file 2 7 0 0)).map zc = some (⟨3, 1, 0, 0⟩, false, false) := by decide

/-- V-DIV-4. -/
theorem test_div_by_zero :
    (after 0x3B 0x03 { file 0xAA 0xBB 100 0 with z := true }).map
      zc = some (⟨0xAA, 0xBB, 100, 0⟩, true, true) := by decide

/-- V-LOG-1. -/
theorem test_and_rr :
    (after 0x41 0x00 { file 0xF0 0x0F 0 0 with c := true }).map
      zc = some (⟨0, 0x0F, 0, 0⟩, true, true) := by decide

/-- V-LOG-2. -/
theorem test_or_rr :
    (after 0x41 0x01 (file 0xF0 0x0F 0 0)).map zc = some (⟨0xFF, 0x0F, 0, 0⟩, false, false) := by decide

/-- V-LOG-3. -/
theorem test_xor_rr :
    (after 0x45 0x02 { file 0 0x5A 0 0 with c := true }).map zc = some (⟨0, 0, 0, 0⟩, true, true) := by decide

/-- V-LOG-4b. -/
theorem test_not :
    (after 0x48 0x03 (file 0 0 0x0F 0)).map zc = some (⟨0, 0, 0xF0, 0⟩, false, false) := by decide

/-- V-LOG-5. -/
theorem test_shl_out :
    (after 0x40 0x04 (file 0x80 0 0 0)).map zc = some (⟨0, 0, 0, 0⟩, true, true) := by decide

/-- V-LOG-6. -/
theorem test_shl_no_carry_in :
    (after 0x40 0x04 { file 0 0 0 0 with c := true }).map zc = some (⟨0, 0, 0, 0⟩, true, false) := by decide

/-- V-LOG-7. -/
theorem test_shr_out :
    (after 0x40 0x05 (file 1 0 0 0)).map zc = some (⟨0, 0, 0, 0⟩, true, true) := by decide

/-- V-LOG-8. -/
theorem test_shr_logical :
    (after 0x40 0x05 { file 0x80 0 0 0 with c := true }).map zc = some (⟨0x40, 0, 0, 0⟩, false, false) := by decide

/-- V-LOG-9. -/
theorem test_rol_wraps :
    (after 0x40 0x06 (file 0x80 0 0 0)).map zc = some (⟨1, 0, 0, 0⟩, false, true) := by decide

/-- V-LOG-10. -/
theorem test_rol_no_carry_in :
    (after 0x40 0x06 { file 0x40 0 0 0 with c := true }).map zc = some (⟨0x80, 0, 0, 0⟩, false, false) := by decide

/-- V-LOG-11. -/
theorem test_ror_wraps :
    (after 0x40 0x07 (file 1 0 0 0)).map zc = some (⟨0x80, 0, 0, 0⟩, false, true) := by decide

/-- V-LOG-12. -/
theorem test_ror_no_carry_in :
    (after 0x40 0x07 { file 0xFE 0 0 0 with c := true }).map zc = some (⟨0x7F, 0, 0, 0⟩, false, false) := by decide

/-- V-LOG-14. -/
theorem test_and_ri :
    (after 0x54 0x0F (file 0 0xA5 0 0)).map zc = some (⟨0, 5, 0, 0⟩, false, false) := by decide

/-- V-LOG-15. -/
theorem test_or_ri :
    (after 0x59 0x80 { file 0 0 1 0 with c := true }).map zc = some (⟨0, 0, 0x81, 0⟩, false, true) := by decide

/-- V-LOG-16. -/
theorem test_xor_ri :
    (after 0x5E 0xFF (file 0 0 0 0xFF)).map zc = some (⟨0, 0, 0, 0⟩, true, false) := by decide

/-- V-MEM-13. -/
theorem test_ld_ind :
    (after 0x60 0x00 { file 0x50 0 0 0 with mem := [(0x50, 0xC4)] }).map (·.reg .r0) = some 0xC4 := by decide

/-- V-MEM-2. -/
theorem test_ld_abs_banked :
    (after 0x65 0x10 { file 0 0 0 0 with bp := 2, mem := [(0x10, 0x11), (0x210, 0x77)] }).map
      (fun t => (t.reg .r1, t.bp)) = some (0x77, 0) := by decide

/-- V-MEM-8. -/
theorem test_ld_abs_buttons :
    (after 0x61 0xF8 { file 0 0 0 0 with btn := 0x81 }).map (·.reg .r0) = some 0x81 := by decide

/-- V-MEM-5. -/
theorem test_st_ind_dont_care :
    (after 0x6A 0xFD (file 0 0x44 0x77 0)).map (·.mem.read 0x44) = some 0x77 := by decide

/-- V-MEM-4. -/
theorem test_st_abs_banked :
    (after 0x6F 0x20 { file 0 0 0 0x5A with bp := 1 }).map
      (fun t => (t.mem.read 0x120, t.mem.read 0x20, t.bp)) = some (0x5A, 0, 0) := by decide

/-- V-MEM-12, second step. -/
theorem test_st_abs_display_in_bank_1 :
    (after 0x63 0xF0 { file 7 0 0 0 with bp := 1 }).map
      (fun t => (t.disp.read 0, t.mem.read 0x1F0, t.bp)) = some (7, 0, 0) := by decide

/-- V-CMP-2. -/
theorem test_cmp_rr :
    (after 0x71 0x00 (file 3 5 0 0)).map zc = some (⟨3, 5, 0, 0⟩, false, true) := by decide

/-- V-CMP-4. -/
theorem test_cmp_ri :
    (after 0x88 0x20 (file 0 0 0x10 0)).map zc = some (⟨0, 0, 0x10, 0⟩, false, true) := by decide

/-- V-JMP-1. -/
theorem test_jmp :
    (after 0x90 0x20 { State.reset with pc := 0x10 }).map (·.pc) = some 0x20 := by decide

/-- V-JMP-12. -/
theorem test_jz_taken :
    (after 0xA0 0x20 { State.reset with pc := 0x10, z := true, bp := 2 }).map
      (fun t => (t.pc, t.bp)) = some (0x20, 2) := by decide

/-- V-JMP-3. -/
theorem test_jz_not_taken :
    (after 0xA0 0x20 { State.reset with pc := 0x10 }).map (·.pc) = some 0x12 := by decide

/-- V-JMP-4. -/
theorem test_jnz_taken :
    (after 0xA1 0x20 { State.reset with pc := 0x10 }).map (·.pc) = some 0x20 := by decide

/-- V-JMP-5. -/
theorem test_jnz_not_taken :
    (after 0xA1 0x20 { State.reset with pc := 0x10, z := true }).map (·.pc) = some 0x12 := by decide

/-- V-JMP-6. -/
theorem test_jc_taken :
    (after 0xB0 0x20 { State.reset with pc := 0x10, c := true }).map (·.pc) = some 0x20 := by decide

/-- V-JMP-7. -/
theorem test_jc_not_taken :
    (after 0xB0 0x20 { State.reset with pc := 0x10 }).map (·.pc) = some 0x12 := by decide

/-- V-STK-8. -/
theorem test_call :
    (after 0xC0 0x20 { State.reset with pc := 0x06 }).map
      (fun t => (t.stack, t.sp, t.pc)) = some ([(0xFF, 0x08)], 0xFE, 0x20) := by decide

/-- V-STK-12. -/
theorem test_call_return_address_wraps :
    (after 0xC0 0x40 { State.reset with pc := 0xFE }).map
      (fun t => (t.stack.read 0xFF, t.sp, t.pc)) = some (0, 0xFE, 0x40) := by decide

/-- V-STK-9. -/
theorem test_ret :
    (after 0xC1 0x00 { State.reset with sp := 0xFE, stack := [(0xFF, 8)] }).map
      (fun t => (t.sp, t.pc)) = some (0xFF, 8) := by decide

/-- V-STK-11. -/
theorem test_ret_alias_on_empty_stack :
    (after 0x00 0x01 { State.reset with stack := [(0, 0x30)] }).map
      (fun t => (t.sp, t.pc)) = some (0, 0x30) := by decide

/-- V-STK-3. -/
theorem test_push_wraps :
    (after 0xD4 0x00 { file 0 0x33 0 0 with sp := 0 }).map
      (fun t => (t.stack, t.sp)) = some ([(0, 0x33)], 0xFF) := by decide

/-- V-STK-4. -/
theorem test_pop_wraps :
    (after 0xD0 0x01 { State.reset with stack := [(0, 0x5C)] }).map
      (fun t => (t.reg .r0, t.sp)) = some (0x5C, 0) := by decide

/-- V-STK-6. -/
theorem test_pusha :
    (after 0xD0 0x02 (file 1 2 3 4)).map
      (fun t => (t.stack, t.sp)) = some ([(0xFC, 4), (0xFD, 3), (0xFE, 2), (0xFF, 1)], 0xFB) := by decide

/-- V-STK-7. -/
theorem test_popa :
    (after 0xD0 0x03 { State.reset with sp := 0xFB, stack := [(0xFC, 4), (0xFD, 3), (0xFE, 2), (0xFF, 1)] }).map
      (fun t => (t.regs, t.sp)) = some (⟨1, 2, 3, 4⟩, 0xFF) := by decide

/-- V-INC-2. -/
theorem test_inc_keeps_carry :
    (after 0xEC 0x00 { file 0 0 0 0xFF with c := true }).map zc = some (⟨0, 0, 0, 0⟩, true, true) := by decide

/-- V-INC-4. -/
theorem test_dec_keeps_carry :
    (after 0xE1 0x00 { file 0 0 0 0 with c := true }).map zc = some (⟨0xFF, 0, 0, 0⟩, false, true) := by decide

/-- V-BNK-3. -/
theorem test_bank_masks :
    (after 0xF0 0xFE State.reset).map (·.bp) = some 2 := by decide

/-- V-SYS-2. -/
theorem test_nop :
    (after 0x0F 0x00 State.reset).map (fun t => (t.pc, t.regs)) = some (2, ⟨0, 0, 0, 0⟩) := by decide

/-- V-SYS-3. -/
theorem test_flip :
    (after 0x00 0x02 { State.reset with vram := [(0, 0x5A), (127, 1)], fb := [(5, 0xFF)] }).map
      (·.fb) = some [(0, 0x5A), (127, 1)] := by decide

/-- V-SYS-4. -/
theorem test_clrf :
    (after 0x00 0x03 { State.reset with vram := [(9, 0x34)], fb := [(9, 0x12)] }).map
      (fun t => (t.fb, t.vram)) = some ([], [(9, 0x34)]) := by decide

/-- V-SYS-5. -/
theorem test_clrv :
    (after 0x00 0x04 { State.reset with vram := [(9, 0x34)], fb := [(9, 0x12)] }).map
      (fun t => (t.fb, t.vram)) = some ([(9, 0x12)], []) := by decide

/-- V-SYS-6. -/
theorem test_plotf_odd :
    (after 0x00 0x05 { file 3 2 0x0A 0 with fb := [(17, 0x50)] }).map (·.fb) = some [(17, 0x5A)] := by decide

/-- V-SYS-9. -/
theorem test_plotf_last_pixel :
    (after 0x00 0x05 { file 15 15 0xFF 0 with fb := [(127, 0xA0)] }).map (·.fb) = some [(127, 0xAF)] := by decide

/-- V-SYS-11. -/
theorem test_plotv_even :
    (after 0x00 0x06 { file 0 0 0x1C 0 with vram := [(0, 0x0B)] }).map (·.vram) = some [(0, 0xCB)] := by decide

/-- V-SYS-8. -/
theorem test_plotv_out_of_range :
    (after 0x00 0x06 (file 0 255 1 0)).map (·.vram) = some [] := by decide

/-- V-SYS-13, second step. -/
theorem test_bcpy_prefix_first_read_only :
    (after 0x00 0x07
      { file 0x10 0x20 2 0 with bp := 1, mem := [(0x10, 0xA1), (0x11, 0xA2), (0x110, 0xB1), (0x111, 0xB2)] }).map
      (fun t => (t.mem.read 0x20, t.mem.read 0x21, t.mem.read 0x120, t.bp)) = some (0xB1, 0xA2, 0, 0) := by decide

/-- V-SYS-14. -/
theorem test_bcpy_into_io :
    (after 0x00 0x07 { file 0x40 0xF6 4 0 with btn := 0x80, mem := [(0x40, 1), (0x41, 2), (0x42, 3), (0x43, 4)] }).map
      (fun t => (t.disp, t.btn, t.mem.read 0xF8)) = some ([(6, 1), (7, 2)], 0x80, 0) := by decide

/-- V-SYS-17. -/
theorem test_vpeek :
    (after 0x00 0x08 { file 0x91 0 0 0 with vram := [(0x11, 0x5A)] }).map (·.reg .r1) = some 0x5A := by decide

/-- V-SYS-19. -/
theorem test_vpoke :
    (after 0x00 0x09 { file 0x80 0x21 0 0 with bp := 1 }).map
      (fun t => (t.vram, t.bp)) = some ([(0, 0x21)], 1) := by decide

/-- V-SYS-16. -/
theorem test_hlt :
    (after 0x00 0x0A { State.reset with pc := 6 }).map (fun t => (t.halt, t.pc)) = some (true, 8) := by decide

/-- V-FET-1. -/
theorem test_fetch_wraps :
    (after 0x20 0x07 { State.reset with pc := 0xFF }).map (fun t => (t.reg .r0, t.pc)) = some (7, 1) := by decide

/-- V-FET-2. -/
theorem test_fetch_ignores_prefix :
    (after 0x20 0x05 { State.reset with bp := 3, mem := [(0x300, 0x2C), (0x301, 9)] }).map
      (fun t => (t.regs, t.bp)) = some (⟨5, 0, 0, 0⟩, 3) := by decide

/-- V-RSV-1. -/
theorem test_reserved_word :
    (after 0x30 0x04 { file 1 2 3 4 with c := true, bp := 2 }).map
      (fun t => (zc t, t.bp, t.pc)) = some ((⟨1, 2, 3, 4⟩, false, true), 2, 2) := by decide

/-- V-RST-1: only the first 254 bytes of a longer program are loaded. -/
theorem test_load_truncates : ((List.replicate 300 (0xEE : Byte)).take config.progMax).length = 254 := by
  rw [List.length_take, List.length_replicate]; rfl

/-- V-HST-1. -/
theorem test_set_input :
    (setInput 2 true State.reset).btn = 0x04 ∧
    (setInput 5 true (setInput 2 true State.reset)).btn = 0x24 ∧
    (setInput 2 false (setInput 5 true (setInput 2 true State.reset))).btn = 0x20 := by decide

/-- V-RST-3: the buttons stay on a reset and are cleared by a load. -/
theorem test_buttons_over_reset :
    (warmReset { State.reset with btn := 4 }).btn = 4 ∧ (loadProgram [] { State.reset with btn := 4 }).btn = 0 := by
  decide

/-! ### Witnesses: a concrete state and operands that meet all the hypotheses of a statement together -/

/-- A machine about to add 2 to 3 (`ADD R0, R1` at 0x10), with a pending prefix. -/
def adding : State :=
  { State.reset with regs := ⟨3, 2, 0, 0⟩, pc := 0x10, bp := 2, mem := [(0x10, 0x31)] }

/-- The machine after that step. -/
def added : State := { adding with regs := ⟨5, 2, 0, 0⟩, pc := 0x12 }

theorem witness_DecoderFollowsOpcodeTable_row :
    ∃ r ∈ opcodeTable, (0x3100 : Word) &&& r.mask = r.pattern := by
  exact ⟨row "ADD_Rd__Rs" 0xF0FF 0x3000 0x0000 (fun w => .add (regA w) (regB w)), by simp [opcodeTable, tableArith],
    by decide⟩

theorem witness_DecoderFollowsOpcodeTable_instr : decodeWord 0x3100 = .instr (.add .r0 .r1) := by decide

theorem witness_DontCareBitsAreIgnored :
    row "MOV_Rd__Rs" 0xF000 0x1000 0x00FF (fun w => .movRR (regA w) (regB w)) ∈ opcodeTable ∧
    (0x1300 : Word) &&& 0xF000 = 0x1000 ∧ ((0x1300 : Word) ^^^ 0x13FF) &&& ~~~(0x00FF : Word) = 0 := by
  exact ⟨by simp [opcodeTable, tableMove], by decide, by decide⟩

theorem witness_StepRunsDecodedInstruction :
    adding.halt = false ∧
    decode (adding.mem.read adding.pc.toNat) (adding.mem.read ((adding.pc.toNat + 1) % 256)) =
      .instr (.add .r0 .r1) := by decide

/-- The fetch at 0xFF takes its second byte from 0x00. -/
theorem witness_StepRunsDecodedInstruction_wrap :
    let s : State := { State.reset with pc := 0xFF, mem := [(0, 7), (0xFF, 0x20)] }
    s.halt = false ∧ decode (s.mem.read s.pc.toNat) (s.mem.read ((s.pc.toNat + 1) % 256)) =
      .instr (.movRI .r0 7) := by decide

theorem witness_HaltedStepChangesNothing : ({ State.reset with halt := true } : State).halt = true := by decide

theorem witness_ReservedWordIsNoOperation :
    let s : State := { State.reset with mem := [(1, 0x0B)] }
    s.halt = false ∧ decode (s.mem.read s.pc.toNat) (s.mem.read ((s.pc.toNat + 1) % 256)) =
      .reserved .sys := by decide

theorem witness_HaltBitSetOnlyByHlt_running : adding.halt = false ∧ step adding = .next added := by
  and_intros <;> first | decide | rfl

/-- A machine about to halt: `HLT` at 0. -/
def halting : State := { State.reset with mem := [(1, 0x0A)] }

/-- A halted machine. -/
def halted : State := { State.reset with halt := true }

theorem witness_HaltBitSetOnlyByHlt_halts :
    halting.halt = false ∧ step halting = .next { halting with pc := 2, halt := true } := by
  and_intros <;> first | decide | rfl

theorem witness_HaltBitSetOnlyByHlt_halted :
    halted.halt = true ∧ step halted = .next halted := by
  and_intros <;> first | decide | rfl

theorem witness_HaltedMachineStaysPut :
    halted.halt = true ∧ ([.step, .setInput 2 true, .step] : List Command).all Command.keepsRunning = true ∧
    runCommands [.step, .setInput 2 true, .step] halted = .next { halted with btn := 4 } := by
  and_intros <;> first | decide | rfl

theorem witness_SequentialPcAdvancesByTwo :
    adding.halt = false ∧
    decode (adding.mem.read adding.pc.toNat) (adding.mem.read ((adding.pc.toNat + 1) % 256)) =
      .instr (.add .r0 .r1) ∧
    (Instr.add .r0 .r1).setsPc = false ∧ step adding = .next added := by
  and_intros <;> first | decide | rfl

theorem witness_FlagsKeptOutsideTheWriters :
    exec (.movRI .r0 0) adding = .next { adding with regs := ⟨0, 2, 0, 0⟩ } ∧
    (Instr.movRI .r0 0).writesZ = false ∧ (Instr.movRI .r0 0).writesC = false := by
  and_intros <;> first | decide | rfl

theorem witness_RegistersKeptOutsideTheDestinations :
    exec (.movRI .r0 0) adding = .next { adding with regs := ⟨0, 2, 0, 0⟩ } ∧
    Reg.r1 ∉ (Instr.movRI .r0 0).dests := by
  and_intros <;> first | decide | rfl

/-- One state for each arm of the statement: BANK, an access, BCPY with a zero count, BCPY with a count of 1 and
an instruction that leaves the prefix alone. -/
theorem witness_BankPrefixWriters :
    exec (.bank 1) adding = .next { adding with bp := 1 } ∧
    exec (.ldAbs .r3 0xF8) adding = .next { adding with bp := 0 } ∧
    exec .bcpy adding = .next adding ∧
    exec .bcpy { adding with regs := ⟨0x40, 0x50, 1, 0⟩ } =
      .next { adding with regs := ⟨0x40, 0x50, 1, 0⟩, bp := 0 } ∧
    exec .nop adding = .next adding := by
  and_intros <;> first | decide | rfl

theorem witness_MemoriesReachedByInstructions :
    exec (.movRI .r0 0) adding = .next { adding with regs := ⟨0, 2, 0, 0⟩ } ∧
    (Instr.movRI .r0 0).storesData = false ∧ (Instr.movRI .r0 0).pushes = false ∧
    (Instr.movRI .r0 0).movesSp = false ∧ (Instr.movRI .r0 0).drawsVram = false ∧
    (Instr.movRI .r0 0).drawsFb = false := by
  and_intros <;> first | decide | rfl

/-- A step that stores: `ST R0, [0xEF]` at 0x10. -/
def storing : State :=
  { State.reset with regs := ⟨0x5A, 0, 0, 0⟩, pc := 0x10, bp := 3, mem := [(0x10, 0x63), (0x11, 0xEF)] }

theorem witness_BytesBehindIoAreNeverWritten :
    step storing = .next { storing with
      pc := 0x12, bp := 0, mem := [(0x10, 0x63), (0x11, 0xEF), (0x3EF, 0x5A)] } ∧
    (3 < 4 ∧ 0xF0 ≤ 0xF0 ∧ 0xF0 ≤ 0xFC) ∧ (3 < 4 ∧ 0xF0 ≤ 0xFC ∧ 0xFC ≤ 0xFC) := by
  and_intros <;> first | decide | rfl

theorem witness_SnapshotAndNegativeFlagAreUnread : step adding = .next added := rfl

theorem witness_FramebufferIsUnread : step adding = .next added := rfl

theorem witness_EveryStepKeepsWellFormed :
    storing.wf = true ∧ step storing = .next { storing with
      pc := 0x12, bp := 0, mem := [(0x10, 0x63), (0x11, 0xEF), (0x3EF, 0x5A)] } := by
  and_intros <;> first | decide | rfl

theorem witness_EveryCommandKeepsWellFormed :
    adding.wf = true ∧ runCommands [.setInput 2 true, .step] adding = .next { added with btn := 4 } := by
  and_intros <;> first | decide | rfl

/-! Each class of window address, at the ends of its range: 0xEF and 0xFD are memory, 0xF0 to 0xF7 the display,
0xF8 the buttons, 0xF9 to 0xFB the clock, 0xFC the bank. -/

theorem witness_DataReadRule_memory :
    let s : State := { adding with mem := [(0x2EF, 1), (0x2FD, 2)] }
    memRead 0xEF s = (1, { s with bp := 0 }) ∧ memRead 0xFD s = (2, { s with bp := 0 }) := by decide

theorem witness_DataReadRule_display :
    let s : State := { adding with disp := [(0, 1), (7, 2)] }
    memRead 0xF0 s = (1, { s with bp := 0 }) ∧ memRead 0xF7 s = (2, { s with bp := 0 }) := by decide

theorem witness_DataReadRule_buttons_and_bank :
    let s : State := { adding with btn := 0x81 }
    memRead 0xF8 s = (0x81, { s with bp := 0 }) ∧ memRead 0xFC s = (2, { s with bp := 0 }) := by decide

theorem witness_DataReadRule_clock :
    memRead 0xF9 adding = ((Config.hostClock 0).hour, { adding with bp := 0, clockReads := 1 }) ∧
    memRead 0xFA adding = ((Config.hostClock 0).minute, { adding with bp := 0, clockReads := 1 }) ∧
    memRead 0xFB adding = ((Config.hostClock 0).second, { adding with bp := 0, clockReads := 1 }) :=
  ⟨rfl, rfl, rfl⟩

theorem witness_DataWriteRule_memory :
    memWrite 0xEF 9 State.reset = { State.reset with mem := [(0xEF, 9)] } ∧
    memWrite 0xFD 9 State.reset = { State.reset with mem := [(0xFD, 9)] } := by decide

theorem witness_DataWriteRule_display :
    memWrite 0xF0 9 State.reset = { State.reset with disp := [(0, 9)] } ∧
    memWrite 0xF7 9 State.reset = { State.reset with disp := [(7, 9)] } := by decide

theorem witness_DataWriteRule_dropped :
    memWrite 0xF8 9 adding = { adding with bp := 0 } ∧ memWrite 0xFC 9 adding = { adding with bp := 0 } := by
  decide

/-- All three clauses: the byte itself, another byte, the same address of another bank. -/
theorem witness_DataReadReturnsLastWrite :
    ((0xEF : Byte).toNat < 0xF8 ∨ 0xFC < (0xEF : Byte).toNat) ∧
    ((0xFD : Byte).toNat < 0xF8 ∨ 0xFC < (0xFD : Byte).toNat) ∧ (0xEF : Byte) ≠ 0xFD ∧
    (1 : BankNo) ≠ adding.bp ∧
    ((0xEF : Byte).toNat < 0xF0 ∨ 0xFC < (0xEF : Byte).toNat) := by decide

/-- A short sequence, and one of the greatest length. -/
theorem witness_StackDiscipline :
    ([1, 2, 3] : List Byte).length ≤ 256 ∧ (List.replicate 256 (7 : Byte)).length ≤ 256 :=
  ⟨by decide, List.length_replicate.le⟩

/-- ST: the ends of the plain addresses with no prefix pending, an I/O address, and a prefix pending. BCPY: no byte,
one byte and the greatest count. -/
theorem witness_StoreToBankZeroIsFetched :
    ((eaAbsolute 0xEF).toNat < 0xF0 ∧ 0xFC < (eaAbsolute 0xFD).toNat) ∧ State.reset.bp = 0 ∧ storing.bp ≠ 0 ∧
    ¬((eaIndirect .r0 (file 0xF0 0 0 0)).toNat < 0xF0 ∨ 0xFC < (eaIndirect .r0 (file 0xF0 0 0 0)).toNat) ∧
    ((file 0x10 0x20 0 0).reg .r2).toNat = 0 ∧ 0 < ((file 0x10 0x20 1 0).reg .r2).toNat ∧
    0 < ((file 0x10 0x20 0xFF 0).reg .r2).toNat := by decide

theorem witness_DivRule :
    ((file 0 0 100 0).reg .r3).toNat = 0 ∧ ((file 0 0 100 1).reg .r3).toNat ≠ 0 := by decide

/-- Every clause of a store's effect has an address: see the ends of each range. -/
theorem witness_StoreRule :
    ((0xEF : Byte).toNat < 0xF0 ∧ 0xFC < (0xFD : Byte).toNat) ∧
    (0xF0 ≤ (0xF0 : Byte).toNat ∧ (0xF7 : Byte).toNat ≤ 0xF7) ∧
    (0xF8 ≤ (0xF8 : Byte).toNat ∧ (0xFC : Byte).toNat ≤ 0xFC) := by decide

theorem witness_JumpRule : added.z = false ∧ ({ added with z := true, c := true } : State).z = true := by decide

theorem witness_PlotRule_in_range :
    ((file 15 15 0xFF 0).reg .r0).toNat ≤ 15 ∧ ((file 15 15 0xFF 0).reg .r1).toNat ≤ 15 := by decide

theorem witness_PlotRule_out_of_range :
    15 < ((file 16 0 5 0).reg .r0).toNat ∧ 15 < ((file 0 16 5 0).reg .r1).toNat := by decide

theorem witness_BankRule : (0xF0FE : Word) &&& 0xF000 = 0xF000 := by decide

/-- Every rule with an encoding clause has a word of that encoding. -/
theorem witness_Encodes :
    (0x3B03 : Word) &&& 0xF0FF = 0x3003 ∧ (0x5D80 : Word) &&& 0xF300 = 0x5100 ∧
    (0xAF20 : Word) &&& 0xF100 = 0xA100 ∧ (0x1800 : Word) &&& 0xF000 = 0x1000 := by decide

theorem witness_BankPrefixIsOneShot :
    (Instr.push .r0).accessesData = false ∧ (∀ j, Instr.push .r0 ≠ .bank j) ∧
    ((0xEF : Byte).toNat < 0xF0 ∨ 0xFC < (0xEF : Byte).toNat) ∧
    ((0xFD : Byte).toNat < 0xF0 ∨ 0xFC < (0xFD : Byte).toNat) := by
  exact ⟨rfl, fun j => by decide +revert, by decide, by decide⟩

/-- Source below the destination, touching it, and ending at the I/O addresses. -/
theorem witness_BcpyCopiesPlainMemory :
    let s := file 0x10 0xE0 0x10 0
    (s.reg .r0).toNat + (s.reg .r2).toNat ≤ 0xF0 ∧ (s.reg .r1).toNat + (s.reg .r2).toNat ≤ 0xF0 ∧
    ((s.reg .r0).toNat + (s.reg .r2).toNat ≤ (s.reg .r1).toNat ∨
      (s.reg .r1).toNat + (s.reg .r2).toNat ≤ (s.reg .r0).toNat) := by decide

theorem witness_BcpyReplicatesOverlap :
    let s := file 0x40 0x41 3 0
    (s.reg .r1).toNat = (s.reg .r0).toNat + 1 ∧ (s.reg .r1).toNat + (s.reg .r2).toNat ≤ 0xF0 ∧
    s.bp = 0 := by decide

/-- A load of `ST R0, [0x00]`, a step that overwrites it, and a reset that brings it back. -/
theorem witness_ResetRestoresLoadedProgram :
    let ks : List Command := [.step, .setInput 1 true]
    ks.all Command.keepsRunning = true ∧
    ∃ t, runCommands (.loadProgram [0x63, 0x00] :: (ks ++ [.reset])) State.reset = .next t :=
  ⟨rfl, _, rfl⟩

/-- Both clauses of the index, at the ends of its range. -/
theorem witness_SetInputRule :
    (setInput 0 true State.reset).btn = 1 ∧ (setInput 7 true State.reset).btn = 0x80 ∧
    setInput 8 true State.reset = State.reset ∧ setInput (-1) true State.reset = State.reset := by decide

end Sys2Proof.Tests
end

section
/-! The registers under the shared operations, and which registers an instruction keeps (10_state.md R31). -/

namespace Sys2Proof.Machine

variable (s : State)

/-! ### What a register reads after each shared operation -/

@[simp] theorem State.reg_memRead (a : Byte) (q : Reg) : (memRead a s).2.reg q = s.reg q := by
  obtain ⟨k, _, _, hk⟩ := memRead_state s a
  rw [hk]
  rfl

@[simp] theorem State.reg_memWrite (a v : Byte) (q : Reg) : (memWrite a v s).reg q = s.reg q := by
  rcases memWrite_cases s a v with ⟨_, h⟩ | ⟨_, _, h⟩ | h <;> rw [h] <;> rfl

@[simp] theorem State.reg_copyBytes (n : Nat) (src dst : Byte) (q : Reg) :
    (copyBytes n src dst s).reg q = s.reg q := by
  obtain ⟨b, m, d, k, h⟩ := copyBytes_state n src dst s
  rw [h]
  rfl

@[simp] theorem State.reg_popPc (q : Reg) : (popPc s).reg q = s.reg q := rfl

@[simp] theorem State.reg_compareFlags (x y : Byte) (q : Reg) : (compareFlags x y s).reg q = s.reg q := rfl

theorem State.reg_popReg (rd q : Reg) : (popReg rd s).reg q = if q = rd then (pop s).1 else s.reg q :=
  State.reg_setReg _ rd q _

theorem State.reg_writeZ (rd q : Reg) (v : Byte) :
    (writeZ rd v s).reg q = if q = rd then v else s.reg q :=
  State.reg_setReg _ rd q _

theorem State.reg_writeZC (rd q : Reg) (v : Byte) (c : Bool) :
    (writeZC rd v c s).reg q = if q = rd then v else s.reg q :=
  State.reg_setReg _ rd q _

/-! ### The destinations of an instruction (10_state.md R31) -/

/-- A write of the fixed pair R0, R1 (MUL and DIV, decisions D17 and D18) keeps the others. -/
theorem State.reg_setPair_of_notMem (v w : Byte) {q : Reg} (h : q ∉ [pairFirst, pairSecond]) :
    ((s.setReg pairFirst v).setReg pairSecond w).reg q = s.reg q := by
  obtain ⟨hfirst, hsecond⟩ : q ≠ pairFirst ∧ q ≠ pairSecond := by simpa using h
  rw [State.reg_setReg_ne _ _ _ _ hsecond, State.reg_setReg_ne _ _ _ _ hfirst]

/-- DIV writes the pair only for a divisor that is not 0 (41_arith.md R163). -/
theorem execDiv_keeps_reg {rd rs q : Reg} {t : State} (h : execDiv rd rs s = .next t)
    (hq : q ∉ [pairFirst, pairSecond]) : t.reg q = s.reg q := by
  simp only [execDiv] at h
  split at h
  · obtain rfl := Host.Outcome.next.inj h
    rfl
  · obtain rfl := Host.Outcome.next.inj h
    exact s.reg_setPair_of_notMem _ _ hq

/-- Settles O14: by the shape of the instruction's destination list, each operation it is made of keeps every
other register. -/
theorem registersKeptOutsideTheDestinations : Obligations.RegistersKeptOutsideTheDestinations := by
  intro i s t r h hr
  cases i with
  -- no destination
  | nop | retSys | flip | clrf | clrv | plotf | plotv | bcpy | vpoke | hlt | stInd | stAbs | cmpRR | cmpRI
  | jmp | call | ret | push | pusha | bank =>
    obtain rfl := Host.Outcome.next.inj h
    simp
  | jz | jnz | jc =>
    obtain rfl := Host.Outcome.next.inj h
    split <;> simp
  -- `rd` alone
  | movRR rd | movRI rd | sub rd | ldInd rd | ldAbs rd =>
    have hrd : r ≠ rd := List.mem_singleton.not.mp hr
    obtain rfl := Host.Outcome.next.inj h
    simp [State.reg_setReg_ne, hrd]
  | andRR rd | orRR rd | xorRR rd | not rd | andRI rd | orRI rd | xorRI rd | inc rd | dec rd =>
    have hrd : r ≠ rd := List.mem_singleton.not.mp hr
    obtain rfl := Host.Outcome.next.inj h
    simp [State.reg_writeZ, hrd]
  | add rd | shl rd | shr rd | rol rd | ror rd =>
    have hrd : r ≠ rd := List.mem_singleton.not.mp hr
    obtain rfl := Host.Outcome.next.inj h
    simp [State.reg_writeZC, hrd]
  | pop rd =>
    have hrd : r ≠ rd := List.mem_singleton.not.mp hr
    obtain rfl := Host.Outcome.next.inj h
    simp [State.reg_popReg, hrd]
  -- fixed registers
  | vpeek =>
    have hdata : r ≠ videoData := List.mem_singleton.not.mp hr
    obtain rfl := Host.Outcome.next.inj h
    exact s.reg_setReg_ne _ _ _ hdata
  | mul =>
    obtain rfl := Host.Outcome.next.inj h
    exact s.reg_setPair_of_notMem _ _ hr
  | div => exact execDiv_keeps_reg s h hr
  | popa =>
    have hall : r ∈ Instr.popa.dests := by cases r <;> decide
    exact absurd hall hr

end Sys2Proof.Machine
end

section
/-! What an instruction may change of each part of the state (10_state.md sections 2 to 7), said once as an
equation between states; the statements about single parts are read off it. -/

namespace Sys2Proof

/-- The instructions that write `BP`: BANK sets it, a data access consumes it (10_state.md R42, 20_memory.md
R79). -/
def Instr.writesBp : Instr → Bool
  | .bank _ => true
  | i => i.accessesData

end Sys2Proof

namespace Sys2Proof.Machine

variable (s : State)

/-! ### The stack and the fetch as arithmetic -/

/-- Settles O26: both primitives are one record update; the rest is the law of a write and byte arithmetic. -/
theorem pushAndPopPrimitives : Obligations.PushAndPopPrimitives := by
  intro v s
  refine ⟨⟨Memory.read_write_same _ _ _, fun a ha => Memory.read_write_ne _ _ _ _ ha, ?_, rfl⟩, ?_, ?_, rfl⟩
  · rw [push_eq, BitVec.toNat_sub, Nat.add_comm]
    rfl
  · simp [pop_eq, BitVec.toNat_add]
  · simp [pop_eq, BitVec.toNat_add]

/-- The fetch takes the bytes at `pc` and `(pc + 1) mod 256` of bank 0 (30_encoding.md R111). -/
theorem fetchDecode_eq :
    fetchDecode s = decode (s.mem.read s.pc.toNat) (s.mem.read ((s.pc.toNat + 1) % 256)) := by
  simp [fetchDecode, fetchHi, fetchLo, fetchByte, memIndex, BitVec.toNat_add]

/-! ### The frame of an instruction -/

/-- The state `s` with the parts of `t` that the instruction may change. -/
def execFrame (i : Instr) (s t : State) : State :=
  { s with
    regs := t.regs
    pc := bif i.setsPc then t.pc else s.pc
    sp := bif i.movesSp then t.sp else s.sp
    z := bif i.writesZ then t.z else s.z
    c := bif i.writesC then t.c else s.c
    bp := bif i.writesBp then t.bp else s.bp
    halt := if i = .hlt then true else s.halt
    mem := bif i.storesData then t.mem else s.mem
    disp := bif i.storesData then t.disp else s.disp
    stack := bif i.pushes then t.stack else s.stack
    vram := bif i.drawsVram then t.vram else s.vram
    fb := bif i.drawsFb then t.fb else s.fb
    clockReads := bif i.accessesData then t.clockReads else s.clockReads }

/-- A data write changes at most `BP`, `MEM` and `DISP` (20_memory.md R76). -/
theorem memWrite_state (a v : Byte) : ∃ m d, memWrite a v s = { s with bp := 0, mem := m, disp := d } := by
  rcases memWrite_cases s a v with ⟨_, h⟩ | ⟨_, _, h⟩ | h <;> exact ⟨_, _, h⟩

/-- An instruction changes nothing outside its frame. -/
theorem exec_frame {i : Instr} {s t : State} (h : exec i s = .next t) : t = execFrame i s t := by
  cases i with
  -- one fixed sequence of named updates
  | nop | retSys | flip | clrf | clrv | plotf | plotv | vpeek | vpoke | hlt | movRR | movRI | add | sub | mul
  | andRR | orRR | xorRR | not | shl | shr | rol | ror | andRI | orRI | xorRI | cmpRR | cmpRI | jmp | call | ret
  | push | pop | pusha | popa | inc | dec | bank =>
    obtain rfl := Host.Outcome.next.inj h
    rfl
  -- a choice
  | jz | jnz | jc =>
    obtain rfl := Host.Outcome.next.inj h
    split <;> rfl
  | div =>
    simp only [exec_div, execDiv] at h
    split at h <;> obtain rfl := Host.Outcome.next.inj h <;> rfl
  -- the data window
  | ldInd | ldAbs =>
    obtain rfl := Host.Outcome.next.inj h
    obtain ⟨k, _, _, hread⟩ := memRead_state s _
    rw [hread]
    rfl
  | stInd | stAbs =>
    obtain rfl := Host.Outcome.next.inj h
    obtain ⟨m, d, hwrite⟩ := memWrite_state s _ _
    rw [hwrite]
    rfl
  | bcpy =>
    obtain rfl := Host.Outcome.next.inj h
    obtain ⟨b, m, d, k, hcopy⟩ := copyBytes_state (copyCount s) (copySource s) (copyDest s) s
    rw [hcopy]
    rfl

/-! ### The parts of the frame -/

section
variable {i : Instr} {s t : State} (h : exec i s = .next t)
include h

/-- HLT sets `HALT`; every other instruction keeps it (10_state.md R43). -/
theorem exec_halt : t.halt = if i = .hlt then true else s.halt :=
  congrArg State.halt (exec_frame h)

theorem exec_keeps_pc (hi : i.setsPc = false) : t.pc = s.pc := by
  rw [exec_frame h]
  simp [execFrame, hi]

theorem exec_keeps_bp (hi : i.writesBp = false) : t.bp = s.bp := by
  rw [exec_frame h]
  simp [execFrame, hi]

end

/-- Settles O13: read off the instruction's frame. -/
theorem flagsKeptOutsideTheWriters : Obligations.FlagsKeptOutsideTheWriters := by
  intro i s t h
  have hframe := exec_frame h
  refine ⟨(congrArg State.n hframe :), fun hz => ?_, fun hc => ?_⟩
  · rw [hframe]
    simp [execFrame, hz]
  · rw [hframe]
    simp [execFrame, hc]

/-- Settles O16: read off the instruction's frame. -/
theorem memoriesReachedByInstructions : Obligations.MemoriesReachedByInstructions := by
  intro i s t h
  have hframe := exec_frame h
  refine ⟨(congrArg State.image hframe :), (congrArg State.btn hframe :), ?_, ?_, ?_, ?_, ?_⟩ <;>
  · intro hi
    rw [hframe]
    simp [execFrame, hi]

/-- Settles O12: the advanced `pc` stands, as an instruction that sets no `pc` keeps it. -/
theorem sequentialPcAdvancesByTwo : Obligations.SequentialPcAdvancesByTwo := by
  intro s t i hrun hdecode hi h
  rw [step_instr s i hrun (by rw [fetchDecode_eq, hdecode])] at h
  calc t.pc.toNat = (s.pc + 2).toNat := congrArg BitVec.toNat (exec_keeps_pc h hi)
    _ = (s.pc.toNat + 2) % 256 := by simp [BitVec.toNat_add]

/-- A step of a running machine sets `HALT` exactly when the fetched bytes are HLT. -/
theorem step_halt_iff {s t : State} (hrun : s.halt = false) (h : step s = .next t) :
    t.halt = true ↔ fetchDecode s = .instr .hlt := by
  rcases step_cases s with ⟨hhalt, _⟩ | ⟨_, i, hi, hstep⟩ | ⟨_, g, hg, hstep⟩
  · simp [hrun] at hhalt
  · rw [hstep] at h
    have hprologue : (advancePc s).halt = false := hrun
    simp [exec_halt h, hprologue, hi]
  · obtain rfl := Host.Outcome.next.inj (hstep.symm.trans h)
    have hprologue : (advancePc s).halt = false := hrun
    simp [hprologue, hg]

/-- Settles O10: a halted step changes nothing, and the host's commands write `HALT` as literals or not at all. -/
theorem haltBitSetOnlyByHlt : Obligations.HaltBitSetOnlyByHlt := by
  refine ⟨fun s t hrun h => ?_, fun s t hhalt h => ?_, fun _ _ => rfl, fun _ => rfl, fun k p s => ?_⟩
  · rw [step_halt_iff hrun h, fetchDecode_eq]
  · rcases step_cases s with ⟨_, hstep⟩ | ⟨hrun, _⟩ | ⟨hrun, _⟩
    · obtain rfl := Host.Outcome.next.inj (hstep.symm.trans h)
      exact hhalt
    · simp [hhalt] at hrun
    · simp [hhalt] at hrun
  · unfold setInput
    split <;> rfl

/-! ### The bank register -/

@[simp] theorem memRead_bp (a : Byte) : (memRead a s).2.bp = 0 := by
  obtain ⟨k, _, _, h⟩ := memRead_state s a
  rw [h]

@[simp] theorem memWrite_bp (a v : Byte) : (memWrite a v s).bp = 0 := by
  obtain ⟨m, d, h⟩ := memWrite_state s a v
  rw [h]

/-- BCPY clears `BP` with its first access, so a zero count keeps it (decision D26). -/
theorem copyBytes_bp (n : Nat) (src dst : Byte) :
    (copyBytes n src dst s).bp = if n = 0 then s.bp else 0 := by
  induction n generalizing src dst s with
  | zero => rfl
  | succ n ih => simp [copyBytes, ih]

/-- Settles O15: the accesses by their own rules, every other instruction by its frame. -/
theorem bankPrefixWriters : Obligations.BankPrefixWriters := by
  intro i s t h
  cases i with
  | bank =>
    obtain rfl := Host.Outcome.next.inj h
    rfl
  | ldInd | ldAbs =>
    obtain rfl := Host.Outcome.next.inj h
    exact memRead_bp s _
  | stInd | stAbs =>
    obtain rfl := Host.Outcome.next.inj h
    exact memWrite_bp s _ _
  | bcpy =>
    obtain rfl := Host.Outcome.next.inj h
    exact copyBytes_bp s _ _ _
  | _ => exact exec_keeps_bp h rfl

end Sys2Proof.Machine
end

section
/-! The parts of the state that no step reads: `IMAGE`, `N` and the framebuffer (10_state.md R38, R46, R50). -/

namespace Sys2Proof.Machine

variable (s : State) (m f : Memory) (b : Bool)

/-- The state with other contents in the three parts that no step reads. -/
def State.withUnread : State := { s with image := m, n := b, fb := f }

/-! ### Every operation commutes with the replacement -/

theorem memRead_withUnread (a : Byte) :
    memRead a (s.withUnread m f b) = ((memRead a s).1, (memRead a s).2.withUnread m f b) := by
  unfold memRead
  cases windowOf config a <;> rfl

theorem memWrite_withUnread (a v : Byte) :
    memWrite a v (s.withUnread m f b) = (memWrite a v s).withUnread m f b := by
  unfold memWrite
  cases windowOf config a <;> rfl

theorem copyBytes_withUnread (n : Nat) (src dst : Byte) :
    copyBytes n src dst (s.withUnread m f b) = (copyBytes n src dst s).withUnread m f b := by
  induction n generalizing src dst s with
  | zero => rfl
  | succ n ih => rw [copyBytes, memRead_withUnread, memWrite_withUnread, ih]; rfl

/-- The three parts flow into nothing else: from any contents an instruction reaches the same state with the same
`IMAGE` and `N`, and a framebuffer that depends on the old one alone. -/
theorem exec_withUnread {i : Instr} {s t : State} (h : exec i s = .next t) :
    ∃ draw : Memory → Memory, ∀ m f b, exec i (s.withUnread m f b) = .next (t.withUnread m (draw f) b) := by
  cases i with
  -- the three that write the framebuffer
  | flip =>
    obtain rfl := Host.Outcome.next.inj h
    exact ⟨fun _ => s.vram, fun _ _ _ => rfl⟩
  | clrf =>
    obtain rfl := Host.Outcome.next.inj h
    exact ⟨fun _ => [], fun _ _ _ => rfl⟩
  | plotf =>
    obtain rfl := Host.Outcome.next.inj h
    exact ⟨fun f => plot f (plotX s) (plotY s) (plotColour s), fun _ _ _ => rfl⟩
  -- the data window
  | ldInd rd | ldAbs rd =>
    obtain rfl := Host.Outcome.next.inj h
    refine ⟨id, fun m f b => congrArg Host.Outcome.next ?_⟩
    exact congrArg (fun r => r.2.setReg rd r.1) (memRead_withUnread s m f b _)
  | stInd | stAbs =>
    obtain rfl := Host.Outcome.next.inj h
    exact ⟨id, fun m f b => congrArg Host.Outcome.next (memWrite_withUnread s m f b _ _)⟩
  | bcpy =>
    obtain rfl := Host.Outcome.next.inj h
    exact ⟨id, fun m f b => congrArg Host.Outcome.next (copyBytes_withUnread s m f b _ _ _)⟩
  -- a choice
  | jz addr =>
    obtain rfl := Host.Outcome.next.inj h
    refine ⟨id, fun m f b => congrArg Host.Outcome.next ?_⟩
    exact (apply_ite (State.withUnread · m f b) (s.z = true) (s.setPc addr) s).symm
  | jnz addr =>
    obtain rfl := Host.Outcome.next.inj h
    refine ⟨id, fun m f b => congrArg Host.Outcome.next ?_⟩
    exact (apply_ite (State.withUnread · m f b) (s.z = true) s (s.setPc addr)).symm
  | jc addr =>
    obtain rfl := Host.Outcome.next.inj h
    refine ⟨id, fun m f b => congrArg Host.Outcome.next ?_⟩
    exact (apply_ite (State.withUnread · m f b) (s.c = true) (s.setPc addr) s).symm
  | div rd rs =>
    refine ⟨id, fun m f b => ?_⟩
    simp only [exec_div, execDiv] at h ⊢
    split at h <;> obtain rfl := Host.Outcome.next.inj h
    · next hzero => exact if_pos hzero
    · next hzero => exact if_neg hzero
  -- one fixed sequence of updates of other parts
  | _ =>
    obtain rfl := Host.Outcome.next.inj h
    exact ⟨id, fun _ _ _ => rfl⟩

/-- The same of a step: neither the fetch nor the halt bit looks at the three parts. -/
theorem step_withUnread {s t : State} (h : step s = .next t) :
    ∃ draw : Memory → Memory, ∀ m f b, step (s.withUnread m f b) = .next (t.withUnread m (draw f) b) := by
  rcases step_cases s with ⟨hhalt, hstep⟩ | ⟨hrun, i, hi, hstep⟩ | ⟨hrun, g, hg, hstep⟩
  · obtain rfl := Host.Outcome.next.inj (hstep.symm.trans h)
    refine ⟨id, fun m f b => ?_⟩
    exact if_pos hhalt
  · obtain ⟨draw, hdraw⟩ := exec_withUnread (hstep.symm.trans h)
    exact ⟨draw, fun m f b => (step_instr (s.withUnread m f b) i hrun hi).trans (hdraw m f b)⟩
  · obtain rfl := Host.Outcome.next.inj (hstep.symm.trans h)
    exact ⟨id, fun m f b => step_reserved (s.withUnread m f b) g hrun hg⟩

/-- Putting back a state's own contents changes nothing, so a step's end state shows what `draw` makes of the old
framebuffer, and keeps `IMAGE` and `N`. -/
theorem eq_withUnread_of_step {s t : State} {draw : Memory → Memory} (h : step s = .next t)
    (hdraw : ∀ m f b, step (s.withUnread m f b) = .next (t.withUnread m (draw f) b)) :
    t = t.withUnread s.image (draw s.fb) s.n :=
  Host.Outcome.next.inj (h.symm.trans (hdraw s.image s.fb s.n))

/-- Settles O18: from the same framebuffer the step leaves the same framebuffer. -/
theorem snapshotAndNegativeFlagAreUnread : Obligations.SnapshotAndNegativeFlagAreUnread := by
  intro s t m b h
  obtain ⟨draw, hdraw⟩ := step_withUnread h
  have hfb : t.fb = draw s.fb := congrArg State.fb (eq_withUnread_of_step h hdraw)
  have hother := hdraw m s.fb b
  rw [← hfb] at hother
  exact hother

/-- Settles O19: with its own `IMAGE` and `N` the step keeps both, and only the framebuffer is another. -/
theorem framebufferIsUnread : Obligations.FramebufferIsUnread := by
  intro s t f h
  obtain ⟨draw, hdraw⟩ := step_withUnread h
  have hkept := eq_withUnread_of_step h hdraw
  have himage : t.image = s.image := (congrArg State.image hkept :)
  have hn : t.n = s.n := (congrArg State.n hkept :)
  refine ⟨draw f, (hdraw s.image f s.n).trans ?_⟩
  rw [← himage, ← hn]
  rfl

end Sys2Proof.Machine
end

section
/-! The invariant of 10_state.md R59: every memory canonical within its size, and `N = 0`. -/

namespace Sys2Proof.Machine

/-- The parts of the invariant by name. -/
structure State.Wf (s : State) : Prop where
  mem : s.mem.wf 1024 = true
  image : s.image.wf 1024 = true
  stack : s.stack.wf 256 = true
  vram : s.vram.wf 128 = true
  fb : s.fb.wf 128 = true
  disp : s.disp.wf config.dispLen = true
  n : s.n = false

theorem State.wf_iff (s : State) : s.wf = true ↔ s.Wf := by
  simp only [State.wf, Bool.and_eq_true, Bool.not_eq_true', and_assoc]
  exact ⟨fun ⟨hmem, himage, hstack, hvram, hfb, hdisp, hn⟩ => ⟨hmem, himage, hstack, hvram, hfb, hdisp, hn⟩,
    fun ⟨hmem, himage, hstack, hvram, hfb, hdisp, hn⟩ => ⟨hmem, himage, hstack, hvram, hfb, hdisp, hn⟩⟩

/-- Settles O20: every memory is empty. -/
theorem powerOnStateIsWellFormed : Obligations.PowerOnStateIsWellFormed := rfl

/-! ### Every operation that writes a memory keeps its form -/

theorem Memory.wf_plot {m : Memory} (x y : Byte) (col : BitVec 4) (h : m.wf 128 = true) :
    (plot m x y col).wf 128 = true := by
  unfold plot
  split
  · next hrange => exact Memory.wf_write _ _ (pixelOffset_lt _ _ hrange.1 hrange.2) h
  · exact h

theorem videoOffset_lt (s : State) : videoOffset s < 128 := Nat.mod_lt _ (by decide)

theorem imageOf_wf (bytes : List Byte) : (imageOf bytes).wf 1024 = true := by
  have hlength : (bytes.take config.progMax).length ≤ 254 := List.length_take_le _ _
  exact Memory.wf_load _ _ _ (by omega) (Memory.wf_nil _)

section
variable {s : State} (hs : s.Wf)
include hs

theorem State.Wf.push (v : Byte) : (push v s).Wf :=
  { hs with stack := Memory.wf_write _ _ s.sp.isLt hs.stack }

theorem State.Wf.memRead (a : Byte) : (memRead a s).2.Wf := by
  obtain ⟨k, _, _, hread⟩ := memRead_state s a
  rw [hread]
  exact { hs with }

theorem State.Wf.memWrite (a v : Byte) : (memWrite a v s).Wf := by
  rcases memWrite_cases s a v with ⟨_, hwrite⟩ | ⟨i, hi, hwrite⟩ | hwrite <;> rw [hwrite]
  · exact { hs with mem := Memory.wf_write _ _ (memIndex_lt _ _) hs.mem }
  · exact { hs with disp := Memory.wf_write _ _ (windowOf_display_lt _ _ hi) hs.disp }
  · exact { hs with }

theorem State.Wf.copyBytes (n : Nat) (src dst : Byte) : (copyBytes n src dst s).Wf := by
  induction n generalizing src dst s with
  | zero => exact hs
  | succ n ih => exact ih ((hs.memRead src).memWrite dst _) _ _

/-- An instruction that writes no memory keeps the invariant, by its frame. -/
theorem State.Wf.exec_of_writes_no_memory {i : Instr} {t : State} (h : exec i s = .next t)
    (hstores : i.storesData = false) (hpushes : i.pushes = false) (hvram : i.drawsVram = false)
    (hfb : i.drawsFb = false) : t.Wf := by
  obtain ⟨himage, _, hdata, hstack, _, hkeepsVram, hkeepsFb⟩ := memoriesReachedByInstructions i s t h
  obtain ⟨hmem, hdisp⟩ := hdata hstores
  have hn : t.n = s.n := (flagsKeptOutsideTheWriters i s t h).1
  exact
    { mem := hmem ▸ hs.mem
      image := himage ▸ hs.image
      stack := hstack hpushes ▸ hs.stack
      vram := hkeepsVram hvram ▸ hs.vram
      fb := hkeepsFb hfb ▸ hs.fb
      disp := hdisp ▸ hs.disp
      n := hn.trans hs.n }

/-- Every instruction keeps the invariant; only the writers of a memory have something to show. -/
theorem State.Wf.exec {i : Instr} {t : State} (h : exec i s = .next t) : t.Wf := by
  cases i with
  -- `FB`
  | flip =>
    obtain rfl := Host.Outcome.next.inj h
    exact { hs with fb := hs.vram }
  | clrf =>
    obtain rfl := Host.Outcome.next.inj h
    exact { hs with fb := Memory.wf_nil _ }
  | plotf =>
    obtain rfl := Host.Outcome.next.inj h
    exact { hs with fb := Memory.wf_plot _ _ _ hs.fb }
  -- `VRAM`
  | clrv =>
    obtain rfl := Host.Outcome.next.inj h
    exact { hs with vram := Memory.wf_nil _ }
  | plotv =>
    obtain rfl := Host.Outcome.next.inj h
    exact { hs with vram := Memory.wf_plot _ _ _ hs.vram }
  | vpoke =>
    obtain rfl := Host.Outcome.next.inj h
    exact { hs with vram := Memory.wf_write _ _ (videoOffset_lt s) hs.vram }
  -- `MEM` and `DISP`
  | bcpy =>
    obtain rfl := Host.Outcome.next.inj h
    exact hs.copyBytes _ _ _
  | stInd | stAbs =>
    obtain rfl := Host.Outcome.next.inj h
    exact hs.memWrite _ _
  -- `STACK`
  | call =>
    obtain rfl := Host.Outcome.next.inj h
    exact { hs.push s.pc with }
  | push =>
    obtain rfl := Host.Outcome.next.inj h
    exact hs.push _
  | pusha =>
    obtain rfl := Host.Outcome.next.inj h
    exact (((hs.push _).push _).push _).push _
  | _ => exact hs.exec_of_writes_no_memory h rfl rfl rfl rfl

theorem State.Wf.advancePc : (advancePc s).Wf := { hs with }

theorem State.Wf.step {t : State} (h : step s = .next t) : t.Wf := by
  rcases step_cases s with ⟨_, hstep⟩ | ⟨_, i, _, hstep⟩ | ⟨_, g, _, hstep⟩
  · obtain rfl := Host.Outcome.next.inj (hstep.symm.trans h)
    exact hs
  · exact hs.advancePc.exec (hstep.symm.trans h)
  · obtain rfl := Host.Outcome.next.inj (hstep.symm.trans h)
    exact hs.advancePc

/-! ### The host's commands -/

theorem State.Wf.warmReset : (warmReset s).Wf where
  mem := hs.image
  image := hs.image
  stack := Memory.wf_fill _ _
  vram := Memory.wf_fill _ _
  fb := Memory.wf_fill _ _
  disp := Memory.wf_fill _ _
  n := rfl

theorem State.Wf.setInput (index : Int) (pressed : Bool) : (setInput index pressed s).Wf := by
  unfold Machine.setInput
  split
  · exact { hs with }
  · exact hs

end

/-- A load leaves a well-formed state, whatever it finds. -/
theorem loadProgram_wf (bytes : List Byte) (s : State) : (loadProgram bytes s).Wf where
  mem := imageOf_wf bytes
  image := imageOf_wf bytes
  stack := Memory.wf_nil _
  vram := Memory.wf_nil _
  fb := Memory.wf_nil _
  disp := Memory.wf_nil _
  n := rfl

theorem State.Wf.runCommand {s t : State} (hs : s.Wf) {k : Command} (h : runCommand k s = .next t) : t.Wf := by
  cases k with
  | step => exact hs.step h
  | loadProgram bytes =>
    obtain rfl := Host.Outcome.next.inj h
    exact loadProgram_wf bytes s
  | reset =>
    obtain rfl := Host.Outcome.next.inj h
    exact hs.warmReset
  | setInput index pressed =>
    obtain rfl := Host.Outcome.next.inj h
    exact hs.setInput index pressed

/-- What every command keeps, every sequence of commands keeps. -/
theorem runCommands_invariant {P : State → Prop}
    (hkeeps : ∀ {k s t}, P s → runCommand k s = .next t → P t) (ks : List Command) {s t : State} (hs : P s)
    (h : runCommands ks s = .next t) : P t := by
  induction ks generalizing s with
  | nil =>
    obtain rfl := Host.Outcome.next.inj h
    exact hs
  | cons k ks ih =>
    rw [runCommands] at h
    split at h
    · next hk => exact ih (hkeeps hs hk) h
    · contradiction
    · contradiction

/-- Settles O21: every instruction keeps the form of the one memory it writes, and no instruction writes `N`. -/
theorem everyStepKeepsWellFormed : Obligations.EveryStepKeepsWellFormed := by
  intro s t hs h
  rw [State.wf_iff] at hs ⊢
  exact hs.step h

/-- Settles O22: by induction on the commands, each of which keeps the invariant. -/
theorem everyCommandKeepsWellFormed : Obligations.EveryCommandKeepsWellFormed := by
  intro ks s t hs h
  rw [State.wf_iff] at hs ⊢
  exact runCommands_invariant (P := State.Wf) (fun hs hk => hs.runCommand hk) ks hs h

end Sys2Proof.Machine
end

section
/-! The data window by address: what a data read and a data write do in each range of 20_memory.md R77, and how
they meet on one byte (R90) and at the fetch (R80, R93). -/

namespace Sys2Proof.Machine

variable (s : State)

/-! ### The ranges of the window (20_memory.md R77, decision D28) -/

theorem windowOf_display (a : Byte) (i : Nat) :
    windowOf config a = .display i ↔ (0xF0 ≤ a.toNat ∧ a.toNat ≤ 0xF7) ∧ i = a.toNat - 0xF0 := by
  have hrange : config.ioDispBase.toNat ≤ a.toNat ∧ a.toNat < config.ioDispBase.toNat + config.dispLen ↔
      0xF0 ≤ a.toNat ∧ a.toNat ≤ 0xF7 := and_congr_right fun _ => Nat.lt_succ_iff
  unfold windowOf
  simp only [hrange]
  split
  · next h => simp [h, config, eq_comm]
  · next h =>
    simp only [h, false_and, iff_false]
    repeat' split
    all_goals exact Window.noConfusion

/-- An address that is not read-only is stored somewhere: in `MEM` or in the display. -/
theorem windowOf_of_writable {a : Byte} (h : a.toNat < 0xF8 ∨ 0xFC < a.toNat) :
    windowOf config a = .memory ∨ windowOf config a = .display (a.toNat - 0xF0) := by
  rw [windowOf_memory, windowOf_display]
  omega

/-! ### Each access by its range -/

/-- A read of a display address (20_memory.md R75, R82). -/
theorem memRead_display (a : Byte) (i : Nat) (h : windowOf config a = .display i) :
    memRead a s = (s.disp.read i, { s with bp := 0 }) := by
  simp [memRead, h]
  rfl

/-- A write of a read-only I/O address does no more than clear `BP` (20_memory.md R76). -/
theorem memWrite_readOnly {a : Byte} (v : Byte) (h : 0xF8 ≤ a.toNat ∧ a.toNat ≤ 0xFC) :
    memWrite a v s = { s with bp := 0 } := by
  apply memWrite_dropped
  · rw [Ne, windowOf_memory]
    omega
  · intro i
    rw [Ne, windowOf_display]
    omega

/-- Settles O23: the display and `MEM` by the rules of their ranges; each other address is one fixed address, at
which the window computes. -/
theorem dataReadRule : Obligations.DataReadRule := by
  intro a s
  have hfixed {n : Nat} (h : a.toNat = n) : a = BitVec.ofNat 8 n := by simp [← h]
  refine ⟨fun h => ?display, fun h => ?buttons, fun h => ?hour, fun h => ?minute, fun h => ?second,
    fun h => ?bank, fun h => ?memory⟩
  case display => exact memRead_display s a _ ((windowOf_display a _).mpr ⟨h, rfl⟩)
  case memory => exact memRead_memory s a ((windowOf_memory a).mpr h)
  all_goals
    obtain rfl := hfixed h
    rfl

/-- What the instructions that store do is what one data write does. -/
theorem storeEffect_memWrite (a v : Byte) : StoreEffect a v s (memWrite a v s) := by
  refine ⟨?frame, fun h => ?memory, fun h => ?display, fun h => ?readOnly⟩
  case frame =>
    obtain ⟨m, d, hwrite⟩ := memWrite_state s a v
    rw [hwrite]
  case memory =>
    rw [memWrite_memory s a v ((windowOf_memory a).mpr h)]
    exact ⟨Memory.read_write_same _ _ _, fun b hb => Memory.read_write_ne _ _ _ _ hb, rfl⟩
  case display =>
    rw [memWrite_display s a v _ ((windowOf_display a _).mpr ⟨h, rfl⟩)]
    exact ⟨Memory.read_write_same _ _ _, fun b hb => Memory.read_write_ne _ _ _ _ hb, rfl⟩
  case readOnly =>
    rw [memWrite_readOnly s v h]
    exact ⟨rfl, rfl⟩

/-- Settles O24: range by range. -/
theorem dataWriteRule : Obligations.DataWriteRule :=
  fun a v s => ⟨storeEffect_memWrite s a v, rfl⟩

/-! ### A read after a write -/

/-- A data read after a data write, both of writable addresses: it gives the byte written where the address is the
same and, in `MEM`, so is the bank; the display is one for all banks (20_memory.md R78, R82). -/
theorem memRead_memWrite {a b : Byte} (v : Byte) (k : BankNo) (ha : a.toNat < 0xF8 ∨ 0xFC < a.toNat)
    (hb : b.toNat < 0xF8 ∨ 0xFC < b.toNat) :
    (memRead b { memWrite a v s with bp := k }).1 =
      if b = a ∧ (windowOf config a = .memory → k = s.bp) then v else (memRead b { s with bp := k }).1 := by
  rcases windowOf_of_writable ha with hwa | hwa <;> rcases windowOf_of_writable hb with hwb | hwb
  · simp only [memWrite_memory s a v hwa, memRead_memory _ b hwb, Memory.read_write, memIndex_inj, hwa, true_imp_iff,
      and_comm]
  · have hne : b ≠ a := by rintro rfl; simp [hwa] at hwb
    simp [memWrite_memory s a v hwa, memRead_display _ b _ hwb, hne]
  · have hne : b ≠ a := by rintro rfl; simp [hwa] at hwb
    simp [memWrite_display s a v _ hwa, memRead_memory _ b hwb, hne]
  · have hsame : b.toNat - 0xF0 = a.toNat - 0xF0 ↔ b = a := by
      obtain ⟨harange, _⟩ := (windowOf_display a _).mp hwa
      obtain ⟨hbrange, _⟩ := (windowOf_display b _).mp hwb
      rw [← BitVec.toNat_inj]
      omega
    simp [memWrite_display s a v _ hwa, memRead_display _ b _ hwb, Memory.read_write, hwa, hsame]

/-- Settles O25: the three clauses are the same address and bank, another address, and another bank of `MEM`. -/
theorem dataReadReturnsLastWrite : Obligations.DataReadReturnsLastWrite := by
  intro a b v k s ha hb
  refine ⟨?_, fun hab => ?_, fun hk hmem => ?_⟩
  · rw [memRead_memWrite s v s.bp ha ha, if_pos ⟨rfl, fun _ => rfl⟩]
  · rw [memRead_memWrite s v k ha hb, if_neg fun h => hab h.1.symm]
  · have hwindow := (windowOf_memory a).mpr hmem
    rw [memRead_memWrite s v k ha ha, if_neg fun h => hk (h.2 hwindow)]

/-! ### The bytes of `MEM` behind the I/O addresses -/

/-- A data write keeps them, as the I/O check comes first, in every bank (20_memory.md R76, R78). -/
theorem memWrite_keeps_behind_io (a v : Byte) (k : Nat) {i : Nat} (hi : 0xF0 ≤ i ∧ i ≤ 0xFC) :
    (memWrite a v s).mem.read (256 * k + i) = s.mem.read (256 * k + i) := by
  rcases memWrite_cases s a v with ⟨hwindow, hwrite⟩ | ⟨_, _, hwrite⟩ | hwrite <;> rw [hwrite]
  apply Memory.read_write_ne
  rw [windowOf_memory] at hwindow
  unfold memIndex
  omega

@[simp] theorem memRead_mem (a : Byte) : (memRead a s).2.mem = s.mem := by
  obtain ⟨k, _, _, h⟩ := memRead_state s a
  rw [h]

theorem copyBytes_keeps_behind_io (n : Nat) (src dst : Byte) (k : Nat) {i : Nat} (hi : 0xF0 ≤ i ∧ i ≤ 0xFC) :
    (copyBytes n src dst s).mem.read (256 * k + i) = s.mem.read (256 * k + i) := by
  induction n generalizing src dst s with
  | zero => rfl
  | succ n ih => rw [copyBytes, ih, memWrite_keeps_behind_io _ _ _ _ hi, memRead_mem]

theorem exec_keeps_behind_io {j : Instr} {s t : State} (h : exec j s = .next t) (k : Nat) {i : Nat}
    (hi : 0xF0 ≤ i ∧ i ≤ 0xFC) : t.mem.read (256 * k + i) = s.mem.read (256 * k + i) := by
  obtain ⟨_, _, hdata, _⟩ := memoriesReachedByInstructions j s t h
  cases j with
  | stInd | stAbs =>
    obtain rfl := Host.Outcome.next.inj h
    exact memWrite_keeps_behind_io s _ _ k hi
  | bcpy =>
    obtain rfl := Host.Outcome.next.inj h
    exact copyBytes_keeps_behind_io s _ _ _ k hi
  | _ => rw [(hdata rfl).1]

/-- Settles O17: only an executed instruction can write `MEM`, and it does so through data writes. -/
theorem bytesBehindIoAreNeverWritten : Obligations.BytesBehindIoAreNeverWritten := by
  intro s t k a h _ hlow hhigh
  rcases step_cases s with ⟨_, hstep⟩ | ⟨_, i, _, hstep⟩ | ⟨_, g, _, hstep⟩
  · obtain rfl := Host.Outcome.next.inj (hstep.symm.trans h)
    rfl
  · exact exec_keeps_behind_io (hstep.symm.trans h) k ⟨hlow, hhigh⟩
  · obtain rfl := Host.Outcome.next.inj (hstep.symm.trans h)
    rfl

/-! ### The last byte of a block copy -/

/-- The data window reads no register. -/
theorem memRead_setReg (a : Byte) (q : Reg) (x : Byte) :
    memRead a (s.setReg q x) = ((memRead a s).1, (memRead a s).2.setReg q x) := by
  unfold memRead
  cases windowOf config a <;> rfl

theorem memWrite_setReg (a v : Byte) (q : Reg) (x : Byte) :
    memWrite a v (s.setReg q x) = (memWrite a v s).setReg q x := by
  unfold memWrite
  cases windowOf config a <;> rfl

/-- Nor does a copy, once its count and addresses are taken. -/
theorem copyBytes_setReg (n : Nat) (src dst : Byte) (q : Reg) (x : Byte) :
    copyBytes n src dst (s.setReg q x) = (copyBytes n src dst s).setReg q x := by
  induction n generalizing src dst s with
  | zero => rfl
  | succ n ih => rw [copyBytes, memRead_setReg, memWrite_setReg, ih, copyBytes]

/-- A copy taken from its other end: all bytes but the last, then the last one (decision D26, ascending order). -/
theorem copyBytes_succ_last (n : Nat) (src dst : Byte) :
    copyBytes (n + 1) src dst s =
      memWrite (dst + BitVec.ofNat 8 n) (memRead (src + BitVec.ofNat 8 n) (copyBytes n src dst s)).1
        (memRead (src + BitVec.ofNat 8 n) (copyBytes n src dst s)).2 := by
  induction n generalizing src dst s with
  | zero => simp [copyBytes]
  | succ n ih =>
    have hshift (a : Byte) : a + 1 + BitVec.ofNat 8 n = a + BitVec.ofNat 8 (n + 1) := by bv_omega
    rw [copyBytes, ih, hshift, hshift, copyBytes]

/-- What the last byte of a copy does to a fetch: its read cleared `BP`, so it lands in bank 0 unless the
destination is an I/O address. -/
theorem fetchByte_copyBytes_succ (n : Nat) (src dst a : Byte) :
    fetchByte (copyBytes (n + 1) src dst s) a =
      if windowOf config (dst + BitVec.ofNat 8 n) = .memory ∧ a = dst + BitVec.ofNat 8 n then
        (memRead (src + BitVec.ofNat 8 n) (copyBytes n src dst s)).1
      else fetchByte (copyBytes n src dst s) a := by
  rw [copyBytes_succ_last, fetchByte_memWrite]
  simp [fetchByte]

/-- BCPY with another count in its count register. -/
theorem exec_bcpy_setCount (x : Byte) :
    exec .bcpy (s.setReg .r2 x) = .next ((copyBytes x.toNat (s.reg .r0) (s.reg .r1) s).setReg .r2 x) := by
  rw [← copyBytes_setReg]
  rfl

/-- BCPY with a count that is not 0, against BCPY with one byte less. -/
theorem fetchByte_execBcpy (hcount : 0 < (s.reg .r2).toNat) :
    ∃ u t, exec .bcpy (s.setReg .r2 (s.reg .r2 - 1)) = .next u ∧ exec .bcpy s = .next t ∧
      ∀ a, fetchByte t a =
        if windowOf config (s.reg .r1 + (s.reg .r2 - 1)) = .memory ∧ a = s.reg .r1 + (s.reg .r2 - 1) then
          (memRead (s.reg .r0 + (s.reg .r2 - 1)) u).1
        else fetchByte u a := by
  obtain ⟨n, hn⟩ := Nat.exists_eq_succ_of_ne_zero hcount.ne'
  have hlast : s.reg .r2 - 1 = BitVec.ofNat 8 n := by bv_omega
  have hless : (s.reg .r2 - 1).toNat = n := by bv_omega
  have hcopy : copyBytes (copyCount s) (copySource s) (copyDest s) s =
      copyBytes (n + 1) (s.reg .r0) (s.reg .r1) s := by rw [copyCount, hn]; rfl
  refine ⟨_, _, exec_bcpy_setCount s _, congrArg Host.Outcome.next hcopy, fun a => ?_⟩
  rw [fetchByte_copyBytes_succ, memRead_setReg, hless, hlast]
  rfl

/-- Settles O28: ST is one data write, BCPY of no byte is nothing, and the last byte of any other BCPY is one data
write more. -/
theorem storeToBankZeroIsFetched : Obligations.StoreToBankZeroIsFetched := by
  unfold Obligations.StoreToBankZeroIsFetched
  simp only [← windowOf_memory]
  refine ⟨fun rd addr s => ⟨_, rfl, fetchByte_memWrite s _ _⟩, fun rd ra s => ⟨_, rfl, fetchByte_memWrite s _ _⟩,
    fun s hcount => ?_, fetchByte_execBcpy⟩
  rw [exec_bcpy, execBcpy, copyCount, hcount]
  rfl

end Sys2Proof.Machine
end

section
/-! The encoder against the decoder (30_encoding.md R121, R130). -/

namespace Sys2Proof

/-- Each instruction by the decoder of its opcode group, which reads the packed fields back. -/
theorem decodeWord_encode (i : Instr) : decodeWord (encode i) = .instr i := by
  cases i with
  -- no operand: one fixed word each
  | nop | retSys | flip | clrf | clrv | plotf | plotv | bcpy | vpeek | vpoke | hlt | ret | pusha | popa => decide
  -- decided by `op`, or by `op` and `c`
  | movRR | movRI | cmpRR | cmpRI | jmp | jz | jnz | jc | call | inc | dec | bank => simp [encode, decodeFields]
  -- groups with a selector of their own
  | add | sub | mul | div => simp [encode, decodeFields, decodeArith]
  | andRR | orRR | xorRR | not | shl | shr | rol | ror => simp [encode, decodeFields, decodeLogic]
  | andRI | orRI | xorRI => simp [encode, decodeFields, decodeLogicImm]
  | ldInd | ldAbs | stInd | stAbs => simp [encode, decodeFields, decodeMem]
  | push | pop => simp [encode, decodeFields, decodeStack]

/-- Settles O2: as a word by `decodeWord_encode`; the two bytes joined are that word. -/
theorem decodeOfEncodeIsTheInstruction : Obligations.DecodeOfEncodeIsTheInstruction := by
  intro i
  refine ⟨decodeWord_encode i, _, _, rfl, ?_⟩
  rw [decode, bytes_append, decodeWord_encode]

end Sys2Proof
end

section
/-! The rows of the opcode table as laws (30_encoding.md R121): which fields select a row, and where its encoding
takes the operands from. -/

namespace Sys2Proof

/-! ### Masked words, field by field -/

theorem and_eq_pack (w m : Word) :
    w &&& m = pack (fieldOp w &&& fieldOp m) (fieldA w &&& fieldA m) (fieldB w &&& fieldB m)
      (fieldLo w &&& fieldLo m) := by
  rw [← pack_and, pack_fields, pack_fields]

theorem fieldOp_and (w m : Word) : fieldOp (w &&& m) = fieldOp w &&& fieldOp m := by
  rw [and_eq_pack, fieldOp_pack]

theorem fieldB_and (w m : Word) : fieldB (w &&& m) = fieldB w &&& fieldB m := by
  rw [and_eq_pack, fieldB_pack]

theorem fieldLo_and (w m : Word) : fieldLo (w &&& m) = fieldLo w &&& fieldLo m := by
  rw [and_eq_pack, fieldLo_pack]

theorem pack_or (op op' : BitVec 4) (a a' b b' : BitVec 2) (lo lo' : Byte) :
    pack op a b lo ||| pack op' a' b' lo' = pack (op ||| op') (a ||| a') (b ||| b') (lo ||| lo') :=
  (BitVec.or_append (x₁ := op ++ a ++ b) (x₂ := op' ++ a' ++ b')).trans
    (by rw [BitVec.or_append, BitVec.or_append]; rfl)

/-- Words that differ only outside a mask are the same under it. -/
theorem and_eq_and_of_xor_and_eq_zero {w w' m : Word} (h : (w ^^^ w') &&& m = 0) : w &&& m = w' &&& m := by
  have hxor : (w &&& m) ^^^ (w' &&& m) = (w ^^^ w') &&& m := by
    ext i
    simp [Bool.and_xor_distrib_right]
  rw [← BitVec.xor_eq_zero_iff, hxor, h]
  rfl

section
variable {w m p : Word} {build : Word → Instr}

/-! ### A whole field under the mask is the pattern's -/

theorem fieldOp_of_match (hm : fieldOp m = BitVec.allOnes 4) (h : w &&& m = p) : fieldOp w = fieldOp p := by
  rw [← h, fieldOp_and, hm, BitVec.and_allOnes]

theorem fieldB_of_match (hm : fieldB m = BitVec.allOnes 2) (h : w &&& m = p) : fieldB w = fieldB p := by
  rw [← h, fieldB_and, hm, BitVec.and_allOnes]

theorem fieldLo_of_match (hm : fieldLo m = BitVec.allOnes 8) (h : w &&& m = p) : fieldLo w = fieldLo p := by
  rw [← h, fieldLo_and, hm, BitVec.and_allOnes]

/-! ### What selects a row: `op` alone, or `op` with `c`, with `b`, or with `lo` (R123) -/

theorem encodes_op (h : ∀ w, decodeFields (fieldOp p) (fieldA w) (fieldB w) (fieldLo w) = .instr (build w)) :
    Encodes 0xF000 p build := by
  intro w hw
  rw [decodeWord, fieldOp_of_match rfl hw, h]

/-- JZ and JNZ, CALL and RET, INC and DEC look at `b` through `c = W[8]` alone (R118, R119). -/
theorem decodeFields_congr_c {op : BitVec 4} {b b' : BitVec 2} (a : BitVec 2) (lo : Byte)
    (hop : op = 0xA ∨ op = 0xC ∨ op = 0xE) (hc : b[0] = b'[0]) :
    decodeFields op a b lo = decodeFields op a b' lo := by
  rcases hop with rfl | rfl | rfl <;> simp [decodeFields, hc]

theorem encodes_opC (hop : fieldOp p = 0xA ∨ fieldOp p = 0xC ∨ fieldOp p = 0xE)
    (h : ∀ w, decodeFields (fieldOp p) (fieldA w) (fieldB p) (fieldLo w) = .instr (build w)) :
    Encodes 0xF100 p build := by
  intro w hw
  have hc : (fieldB w)[0] = (fieldB p)[0] := by
    have hbit : (fieldB 0xF100)[0] = true := rfl
    simp only [← hw, fieldB_and, BitVec.getElem_and, hbit, Bool.and_true]
  rw [decodeWord, fieldOp_of_match rfl hw, decodeFields_congr_c _ _ hop hc, h]

theorem encodes_opB (h : ∀ w, decodeFields (fieldOp p) (fieldA w) (fieldB p) (fieldLo w) = .instr (build w)) :
    Encodes 0xF300 p build := by
  intro w hw
  rw [decodeWord, fieldOp_of_match rfl hw, fieldB_of_match rfl hw, h]

theorem encodes_opLo (h : ∀ w, decodeFields (fieldOp p) (fieldA w) (fieldB w) (fieldLo p) = .instr (build w)) :
    Encodes 0xF0FF p build := by
  intro w hw
  rw [decodeWord, fieldOp_of_match rfl hw, fieldLo_of_match rfl hw, h]

end

/-! ### The operand formats (R114): the operand bits of a word, put into a pattern -/

section
variable {op : BitVec 4} {b : BitVec 2} {lo : Byte} (w : Word)

/-- The mask of a whole 2-bit field, as `simp` writes it. -/
theorem and_pairMask (x : BitVec 2) : x &&& 3#2 = x := BitVec.and_allOnes

/-- The mask of a whole byte, as `simp` writes it. -/
theorem and_byteMask (x : Byte) : x &&& 255#8 = x := BitVec.and_allOnes

theorem setWidth_loPair : ∀ lo : Byte, (loPair lo).setWidth 8 = lo &&& 3#8 := by decide

theorem formatRR : pack op (regA w).toBits (regB w).toBits lo = pack op 0 0 lo ||| (w &&& pack 0 3 3 0) := by
  simp [and_eq_pack w, pack_or, regA, regB, and_pairMask]

/-- Format MA has the same layout. -/
theorem formatRI : pack op (regA w).toBits b (fieldLo w) = pack op 0 b 0 ||| (w &&& pack 0 3 0 255) := by
  simp [and_eq_pack w, pack_or, regA, and_pairMask, and_byteMask]

theorem formatMI :
    pack op (regA w).toBits b ((regLo w).toBits.setWidth 8) = pack op 0 b 0 ||| (w &&& pack 0 3 0 3) := by
  simp [and_eq_pack w, pack_or, regA, regLo, and_pairMask, setWidth_loPair]

theorem formatJ : pack op 0 b (fieldLo w) = pack op 0 b 0 ||| (w &&& pack 0 0 0 255) := by
  simp [and_eq_pack w, pack_or, and_byteMask]

/-- Format J with a bank number in place of the address. -/
theorem formatBank : pack op 0 b ((fieldBank w).setWidth 8) = pack op 0 b 0 ||| (w &&& pack 0 0 0 3) := by
  simp [and_eq_pack w, pack_or, fieldBank, setWidth_loPair]

theorem formatU : pack op (regA w).toBits b lo = pack op 0 b lo ||| (w &&& pack 0 3 0 0) := by
  simp [and_eq_pack w, pack_or, regA, and_pairMask]

theorem formatS : pack op 0 b lo = pack op 0 b lo ||| (w &&& pack 0 0 0 0) := by
  simp [and_eq_pack w, pack_or]

end

/-! ### The table, row by row -/

/-- The bits of a word that hold the row's operands. -/
def Row.operandBits (r : Row) : Word := ~~~(r.mask ||| r.dontCare)

/-- A row read both ways: its words decode to its instruction, and its instruction encodes as its pattern with
the operands in place. -/
structure Row.Lawful (r : Row) : Prop where
  encodes : Encodes r.mask r.pattern r.build
  encode_build (w : Word) : encode (r.build w) = r.pattern ||| (w &&& r.operandBits)

theorem tableSystem_lawful : ∀ r ∈ tableSystem, r.Lawful := by
  refine List.forall_iff_forall_mem.mp ?_
  simp only [tableSystem, List.Forall]
  and_intros
  all_goals exact ⟨encodes_opLo fun _ => rfl, formatS⟩

theorem tableMove_lawful : ∀ r ∈ tableMove, r.Lawful :=
  List.forall_iff_forall_mem.mp
    ⟨⟨encodes_op fun _ => rfl, formatRR⟩,
      ⟨encodes_op fun _ => rfl, formatRI⟩⟩

theorem tableArith_lawful : ∀ r ∈ tableArith, r.Lawful := by
  refine List.forall_iff_forall_mem.mp ?_
  simp only [tableArith, List.Forall]
  and_intros
  all_goals exact ⟨encodes_opLo fun _ => rfl, formatRR⟩

theorem tableLogic_lawful : ∀ r ∈ tableLogic, r.Lawful :=
  List.forall_iff_forall_mem.mp
    ⟨⟨encodes_opLo fun _ => rfl, formatRR⟩,
      ⟨encodes_opLo fun _ => rfl, formatRR⟩,
      ⟨encodes_opLo fun _ => rfl, formatRR⟩,
      ⟨encodes_opLo fun _ => rfl, formatU⟩,
      ⟨encodes_opLo fun _ => rfl, formatU⟩,
      ⟨encodes_opLo fun _ => rfl, formatU⟩,
      ⟨encodes_opLo fun _ => rfl, formatU⟩,
      ⟨encodes_opLo fun _ => rfl, formatU⟩,
      ⟨encodes_opB fun _ => rfl, formatRI⟩,
      ⟨encodes_opB fun _ => rfl, formatRI⟩,
      ⟨encodes_opB fun _ => rfl, formatRI⟩⟩

theorem tableLoadStore_lawful : ∀ r ∈ tableLoadStore, r.Lawful :=
  List.forall_iff_forall_mem.mp
    ⟨⟨encodes_opB fun _ => rfl, formatMI⟩,
      ⟨encodes_opB fun _ => rfl, formatRI⟩,
      ⟨encodes_opB fun _ => rfl, formatMI⟩,
      ⟨encodes_opB fun _ => rfl, formatRI⟩⟩

theorem tableFlow_lawful : ∀ r ∈ tableFlow, r.Lawful :=
  List.forall_iff_forall_mem.mp
    ⟨⟨encodes_op fun _ => rfl, formatRR⟩,
      ⟨encodes_op fun _ => rfl, formatRI⟩,
      ⟨encodes_op fun _ => rfl, formatJ⟩,
      ⟨encodes_opC (by decide) fun _ => rfl, formatJ⟩,
      ⟨encodes_opC (by decide) fun _ => rfl, formatJ⟩,
      ⟨encodes_op fun _ => rfl, formatJ⟩,
      ⟨encodes_opC (by decide) fun _ => rfl, formatJ⟩,
      ⟨encodes_opC (by decide) fun _ => rfl, formatS⟩⟩

theorem tableRest_lawful : ∀ r ∈ tableRest, r.Lawful :=
  List.forall_iff_forall_mem.mp
    ⟨⟨encodes_opLo fun _ => rfl, formatU⟩,
      ⟨encodes_opLo fun _ => rfl, formatU⟩,
      ⟨encodes_opLo fun _ => rfl, formatS⟩,
      ⟨encodes_opLo fun _ => rfl, formatS⟩,
      ⟨encodes_opC (by decide) fun _ => rfl, formatU⟩,
      ⟨encodes_opC (by decide) fun _ => rfl, formatU⟩,
      ⟨encodes_op fun _ => rfl, formatBank⟩⟩

theorem opcodeTable_lawful : ∀ r ∈ opcodeTable, r.Lawful := by
  simp only [opcodeTable, List.forall_mem_append]
  exact ⟨⟨⟨⟨⟨⟨tableSystem_lawful, tableMove_lawful⟩, tableArith_lawful⟩, tableLogic_lawful⟩,
    tableLoadStore_lawful⟩, tableFlow_lawful⟩, tableRest_lawful⟩

/-! ### Don't-care bits (R125, decision D14) -/

section
variable {r : Row} (hr : r ∈ opcodeTable) {w : Word}
include hr

/-- The bits that matter select the row or hold its operands. -/
theorem notDontCare_eq : ~~~r.dontCare = r.mask ||| r.operandBits := by
  revert r; decide

theorem notDontCare_and_mask : ~~~r.dontCare &&& r.mask = r.mask := by
  revert r; decide

/-- A word of a row with its don't-care bits cleared is the encoding of its instruction. -/
theorem encode_build_of_matches (hw : r.matches w) : encode (r.build w) = w &&& ~~~r.dontCare := by
  rw [(opcodeTable_lawful r hr).encode_build, notDontCare_eq hr, BitVec.and_or_distrib_left, hw]

/-- Clearing don't-care bits keeps the word in its row. -/
theorem matches_and_notDontCare (w : Word) : r.matches (w &&& ~~~r.dontCare) ↔ r.matches w := by
  rw [Row.matches, BitVec.and_assoc, notDontCare_and_mask hr]

/-- Clearing don't-care bits keeps what the word decodes to: it leaves the encoding of the same instruction. -/
theorem decodeWord_and_notDontCare (hw : r.matches w) : decodeWord (w &&& ~~~r.dontCare) = decodeWord w := by
  rw [← encode_build_of_matches hr hw, decodeWord_encode, (opcodeTable_lawful r hr).encodes w hw]

end

/-- Settles O5: two words that differ only in don't-care bits are one word when those are cleared. -/
theorem dontCareBitsAreIgnored : Obligations.DontCareBitsAreIgnored := by
  intro r hr w hw
  refine ⟨fun w' hdiff => ?_, encode_build_of_matches hr hw⟩
  have hsame := and_eq_and_of_xor_and_eq_zero hdiff
  have hw' : r.matches w' := by
    rwa [← matches_and_notDontCare hr w', ← hsame, matches_and_notDontCare hr w]
  rw [← decodeWord_and_notDontCare hr hw', ← hsame, decodeWord_and_notDontCare hr hw]

/-! ### No word matches two rows -/

/-- The rows build the instructions in the order of the type's constructors. -/
theorem map_ctorIdx_opcodeTable (w : Word) :
    opcodeTable.map (fun r => (r.build w).ctorIdx) = List.range 47 := rfl

theorem ctorIdx_build (w : Word) {k : Nat} (hk : k < opcodeTable.length) :
    (opcodeTable[k].build w).ctorIdx = k := by
  have hmap := List.getElem_map (fun r : Row => (r.build w).ctorIdx) (l := opcodeTable) (i := k) (h := by simpa)
  rw [← hmap]
  simp only [map_ctorIdx_opcodeTable, List.getElem_range]

/-- A word of two rows would decode to instructions of two constructors. -/
theorem opcodeTable_pairwise_disjoint :
    opcodeTable.Pairwise (fun r r' => ∀ w : Word, ¬(w &&& r.mask = r.pattern ∧ w &&& r'.mask = r'.pattern)) := by
  rw [List.pairwise_iff_getElem]
  intro i j hi hj hij w ⟨hmatch, hmatch'⟩
  have hdecode := (opcodeTable_lawful _ (List.getElem_mem hi)).encodes w hmatch
  have hdecode' := (opcodeTable_lawful _ (List.getElem_mem hj)).encodes w hmatch'
  have hsame : opcodeTable[i].build w = opcodeTable[j].build w := Decoded.instr.inj (hdecode.symm.trans hdecode')
  have hindex := congrArg Instr.ctorIdx hsame
  rw [ctorIdx_build, ctorIdx_build] at hindex
  exact hij.ne hindex

end Sys2Proof
end

section
/-! The reserved encodings (30_encoding.md R126): what the decoder rejects, and that the opcode table holds every
other word. -/

namespace Sys2Proof

/-- The opcode nibble of a group with reserved encodings. -/
def Reserved.op : Reserved → BitVec 4
  | .sys => 0x0
  | .arith => 0x3
  | .logic => 0x4
  | .logicImm => 0x5
  | .stack => 0xD

/-- The selector values a group leaves unused (R126 (a) to (e)). -/
def Reserved.Unused : Reserved → BitVec 2 → Byte → Prop
  | .sys, _, lo => 0x0A < lo.toNat
  | .arith, _, lo => 0x03 < lo.toNat
  | .logic, _, lo => 0x07 < lo.toNat
  | .logicImm, b, _ => b = 3
  | .stack, _, lo => 0x03 < lo.toNat

/-! ### The rejections of each group's decoder -/

section
variable (rd rs : Reg) (b : BitVec 2) (lo : Byte) (g : Reserved)

theorem decodeSys_eq_reserved : decodeSys lo = .reserved g ↔ g = .sys ∧ 0x0A < lo.toNat := by
  unfold decodeSys
  split <;> grind

theorem decodeArith_eq_reserved : decodeArith rd rs lo = .reserved g ↔ g = .arith ∧ 0x03 < lo.toNat := by
  unfold decodeArith
  split <;> grind

theorem decodeLogic_eq_reserved : decodeLogic rd rs lo = .reserved g ↔ g = .logic ∧ 0x07 < lo.toNat := by
  unfold decodeLogic
  split <;> grind

theorem decodeLogicImm_eq_reserved : decodeLogicImm rd b lo = .reserved g ↔ g = .logicImm ∧ b = 3 := by
  have hb : b = 3 ↔ 2 < b.toNat := by bv_omega
  rw [hb]
  unfold decodeLogicImm
  split <;> grind

theorem decodeMem_ne_reserved : decodeMem rd b lo ≠ .reserved g := by
  unfold decodeMem
  split <;> exact Decoded.noConfusion

theorem decodeStack_eq_reserved : decodeStack rd lo = .reserved g ↔ g = .stack ∧ 0x03 < lo.toNat := by
  unfold decodeStack
  split <;> grind

end

/-! ### The rejections of the decoder -/

theorem decodeFields_groupOp (g g' : Reserved) (a b : BitVec 2) (lo : Byte) :
    decodeFields g.op a b lo = .reserved g' ↔ g' = g ∧ g.Unused b lo := by
  cases g with
  | sys => exact decodeSys_eq_reserved lo g'
  | arith => exact decodeArith_eq_reserved _ _ lo g'
  | logic => exact decodeLogic_eq_reserved _ _ lo g'
  | logicImm => exact decodeLogicImm_eq_reserved _ b lo g'
  | stack => exact decodeStack_eq_reserved _ lo g'

/-- The opcode nibbles by what else the decoder looks at: nothing, `c`, the mode of a load or store, or the selector
of a group with reserved encodings (R122, R123). -/
theorem op_cases : ∀ op : BitVec 4,
    op ∈ [0x1, 0x2, 0x7, 0x8, 0x9, 0xB, 0xF] ∨ op ∈ [0xA, 0xC, 0xE] ∨ op = 0x6 ∨
      ∃ g ∈ [Reserved.sys, .arith, .logic, .logicImm, .stack], g.op = op := by decide

theorem exists_groupOp_of_reserved {op : BitVec 4} {a b : BitVec 2} {lo : Byte} {g : Reserved}
    (h : decodeFields op a b lo = .reserved g) : ∃ g' : Reserved, g'.op = op := by
  rcases op_cases op with hop | hop | rfl | ⟨g', -, hop⟩
  · fin_cases hop <;> cases h
  · fin_cases hop <;> cases h
  · exact absurd h (decodeMem_ne_reserved _ _ _ _)
  · exact ⟨g', hop⟩

theorem decodeWord_eq_reserved (w : Word) (g : Reserved) :
    decodeWord w = .reserved g ↔ fieldOp w = g.op ∧ g.Unused (fieldB w) (fieldLo w) := by
  constructor
  · intro h
    obtain ⟨g', hop⟩ := exists_groupOp_of_reserved h
    rw [decodeWord, ← hop, decodeFields_groupOp] at h
    obtain ⟨rfl, hunused⟩ := h
    exact ⟨hop.symm, hunused⟩
  · rintro ⟨hop, hunused⟩
    rw [decodeWord, hop, decodeFields_groupOp]
    exact ⟨rfl, hunused⟩

/-- Settles O4: the five cases of `decodeWord_eq_reserved`. -/
theorem reservedWordsAreTheFiveGroups : Obligations.ReservedWordsAreTheFiveGroups := fun w =>
  ⟨decodeWord_eq_reserved w .sys, decodeWord_eq_reserved w .arith, decodeWord_eq_reserved w .logic,
    decodeWord_eq_reserved w .logicImm, decodeWord_eq_reserved w .stack⟩

/-! ### Every other word is in the table -/

/-- The table has a row with this mask and pattern. -/
abbrev Listed (mask pattern : Word) : Prop := ∃ r ∈ opcodeTable, r.mask = mask ∧ r.pattern = pattern

section
variable {w : Word}

/-- A word under a listed mask, compared with the pattern field by field. -/
theorem Listed.exists_matches {m : Word} {op : BitVec 4} {b : BitVec 2} {lo : Byte} (h : Listed m (pack op 0 b lo))
    (hop : fieldOp w &&& fieldOp m = op) (ha : fieldA w &&& fieldA m = 0) (hb : fieldB w &&& fieldB m = b)
    (hlo : fieldLo w &&& fieldLo m = lo) : ∃ r ∈ opcodeTable, r.matches w := by
  obtain ⟨r, hr, rfl, hpattern⟩ := h
  exact ⟨r, hr, by rw [Row.matches, hpattern, and_eq_pack, hop, ha, hb, hlo]⟩

theorem exists_matches_of_op (h : Listed 0xF000 (pack (fieldOp w) 0 0 0)) : ∃ r ∈ opcodeTable, r.matches w :=
  h.exists_matches BitVec.and_allOnes BitVec.and_zero BitVec.and_zero BitVec.and_zero

theorem exists_matches_of_opC (h : Listed 0xF100 (pack (fieldOp w) 0 (fieldB w &&& 1) 0)) :
    ∃ r ∈ opcodeTable, r.matches w :=
  h.exists_matches BitVec.and_allOnes BitVec.and_zero rfl BitVec.and_zero

theorem exists_matches_of_opB (h : Listed 0xF300 (pack (fieldOp w) 0 (fieldB w) 0)) :
    ∃ r ∈ opcodeTable, r.matches w :=
  h.exists_matches BitVec.and_allOnes BitVec.and_zero BitVec.and_allOnes BitVec.and_zero

/-- The selectors of a group that `lo` selects are listed from 0 up to the group's last. -/
theorem exists_matches_of_opLo {last : Nat} (h : ∀ k ≤ last, Listed 0xF0FF (pack (fieldOp w) 0 0 (.ofNat 8 k)))
    (hlo : ¬ last < (fieldLo w).toNat) : ∃ r ∈ opcodeTable, r.matches w := by
  have hlisted := h _ (Nat.le_of_not_lt hlo)
  rw [BitVec.ofNat_toNat, BitVec.setWidth_eq] at hlisted
  exact hlisted.exists_matches BitVec.and_allOnes BitVec.and_zero BitVec.and_zero BitVec.and_allOnes

theorem exists_matches_of_used (g : Reserved) (hop : fieldOp w = g.op)
    (hused : ¬ g.Unused (fieldB w) (fieldLo w)) : ∃ r ∈ opcodeTable, r.matches w := by
  cases g with
  | sys | arith | logic | stack => exact exists_matches_of_opLo (hop ▸ by decide) hused
  | logicImm =>
    have hlisted : ∀ b : BitVec 2, b ≠ 3 → Listed 0xF300 (pack 0x5 0 b 0) := by decide
    exact exists_matches_of_opB (hop ▸ hlisted _ hused)

/-- Every word that is not rejected matches a row: the rows list every value of every selector. -/
theorem exists_matches_of_instr {i : Instr} (h : decodeWord w = .instr i) : ∃ r ∈ opcodeTable, r.matches w := by
  rcases op_cases (fieldOp w) with hop | hop | hop | ⟨g, -, hop⟩
  · have hlisted : ∀ op ∈ [0x1, 0x2, 0x7, 0x8, 0x9, 0xB, 0xF], Listed 0xF000 (pack op 0 0 0) := by decide
    exact exists_matches_of_op (hlisted _ hop)
  · have hlisted : ∀ op ∈ [0xA, 0xC, 0xE], ∀ b, Listed 0xF100 (pack op 0 (b &&& 1) 0) := by decide
    exact exists_matches_of_opC (hlisted _ hop _)
  · have hlisted : ∀ b, Listed 0xF300 (pack 0x6 0 b 0) := by decide
    exact exists_matches_of_opB (hop ▸ hlisted _)
  · refine exists_matches_of_used g hop.symm fun hunused => ?_
    have hreserved := (decodeWord_eq_reserved w g).mpr ⟨hop.symm, hunused⟩
    simp [h] at hreserved

end

/-- Settles O3: from row to decoder by the row's own law; back, the row a word matches builds what it decodes to. -/
theorem decoderFollowsOpcodeTable : Obligations.DecoderFollowsOpcodeTable := by
  refine ⟨rfl, fun r hr => (opcodeTable_lawful r hr).encodes, fun w i h => ?_, opcodeTable_pairwise_disjoint⟩
  obtain ⟨r, hr, hmatch⟩ := exists_matches_of_instr h
  have hbuild := (opcodeTable_lawful r hr).encodes w hmatch
  exact ⟨r, hr, hmatch, Decoded.instr.inj (hbuild.symm.trans h)⟩

end Sys2Proof
end

section
/-! The step around the decoder (30_encoding.md R110, R111, R127). -/

namespace Sys2Proof.Machine

variable (s : State)

theorem advancePc_eq : advancePc s = { s with pc := .ofNat 8 ((s.pc.toNat + 2) % 256) } := by
  have hpc : s.pc + 2 = .ofNat 8 ((s.pc.toNat + 2) % 256) := by bv_omega
  rw [← hpc]
  rfl

/-- Settles O6: the fetch and the prologue as arithmetic. -/
theorem stepRunsDecodedInstruction : Obligations.StepRunsDecodedInstruction := by
  intro s i hrun hdecode
  rw [← fetchDecode_eq] at hdecode
  rw [step_instr s i hrun hdecode, advancePc_eq]

/-- Settles O7: the one case of a step that a halted machine allows. -/
theorem haltedStepChangesNothing : Obligations.HaltedStepChangesNothing := by
  intro s hhalt
  rcases step_cases s with ⟨_, hstep⟩ | ⟨hrun, _⟩ | ⟨hrun, _⟩
  · exact hstep
  · simp [hhalt] at hrun
  · simp [hhalt] at hrun

/-- Settles O8: after the prologue a reserved word does nothing. -/
theorem reservedWordIsNoOperation : Obligations.ReservedWordIsNoOperation := by
  intro s g hrun hdecode
  rw [← fetchDecode_eq] at hdecode
  rw [step_reserved s g hrun hdecode, advancePc_eq]

end Sys2Proof.Machine
end

section
/-! Register transfer and immediate load (40_move.md R150, R151). -/

namespace Sys2Proof.Machine

/-- What an instruction does whose whole effect is one register write. -/
theorem exec_of_setReg {i : Instr} {s : State} {rd : Reg} {v : Byte} (h : exec i s = .next (s.setReg rd v)) :
    ∃ t, exec i s = .next t ∧ t.reg rd = v ∧ (∀ r, r ≠ rd → t.reg r = s.reg r) ∧ t = { s with regs := t.regs } :=
  ⟨s.setReg rd v, h, s.reg_setReg_same rd v, fun r => s.reg_setReg_ne rd r v, rfl⟩

/-- Settles O29: `op` alone selects either form, and each form is one register write. -/
theorem moveRule : Obligations.MoveRule := by
  refine ⟨encodes_op fun _ => rfl, encodes_op fun _ => rfl, fun rd rs s => ?movRR, fun rd imm s => ?movRI⟩
  case movRR => exact exec_of_setReg (exec_movRR s rd rs)
  case movRI => exact exec_of_setReg (exec_movRI s rd imm)

end Sys2Proof.Machine
end

section
/-! The arithmetic group (41_arith.md R160 to R163, R165). -/

namespace Sys2Proof.Machine

section
variable (x y : Byte)

/-! ### The results as numbers -/

theorem zeroFlag_iff (r : Byte) : zeroFlag r = true ↔ r.toNat = 0 :=
  decide_eq_true_iff.trans BitVec.toNat_eq

theorem toNat_addValue : (addValue x y).toNat = (x.toNat + y.toNat) % 256 := BitVec.toNat_ofNat _ _

theorem addCarry_iff : addCarry x y = true ↔ x.toNat + y.toNat > 255 := decide_eq_true_iff

theorem toNat_subValue : ((subValue x y).toNat : Int) = (x.toNat - y.toNat : Int) % 256 := by
  rw [subValue, difference, BitVec.toNat_ofInt]
  omega

/-- The difference is below 256 in size, so it is 0 as soon as it is 0 modulo 256 (R161). -/
theorem subZero_iff : subZero x y = true ↔ (x.toNat - y.toNat : Int) % 256 = 0 := by
  rw [subZero, difference, decide_eq_true_iff]
  omega

theorem subBorrow_iff : subBorrow x y = true ↔ (x.toNat - y.toNat : Int) < 0 := decide_eq_true_iff

/-- A product of two bytes fits in 16 bits (R164). -/
theorem product_lt : product x y < 256 * 256 := Nat.mul_lt_mul'' x.isLt y.isLt

theorem toNat_productHigh : (productHigh (product x y)).toNat = x.toNat * y.toNat / 256 :=
  (BitVec.toNat_ofNat _ _).trans (Nat.mod_eq_of_lt (Nat.div_lt_of_lt_mul (product_lt x y)))

theorem toNat_productLow : (productLow (product x y)).toNat = x.toNat * y.toNat % 256 := BitVec.toNat_ofNat _ _

theorem productZero_iff : productZero (product x y) = true ↔ x.toNat * y.toNat = 0 := decide_eq_true_iff

theorem toNat_quotient : (quotient x y).toNat = x.toNat / y.toNat :=
  (BitVec.toNat_ofNat _ _).trans (Nat.mod_eq_of_lt ((Nat.div_le_self _ _).trans_lt x.isLt))

theorem toNat_remainder : (remainder x y).toNat = x.toNat % y.toNat := by
  rw [remainder, ← Nat.mod_eq_sub]
  exact (BitVec.toNat_ofNat _ _).trans (Nat.mod_eq_of_lt ((Nat.mod_le _ _).trans_lt x.isLt))

end

/-! ### Where the results go: `Rd` (ADD, SUB) or the fixed pair R0, R1 (MUL, DIV; decisions D17, D18) -/

section
variable {i : Instr} {s : State}

/-- What an instruction does whose whole effect is one register write and the flags `Z` and `C`. -/
theorem exec_of_setReg_setZ_setC {rd : Reg} {v : Byte} {z c : Bool}
    (h : exec i s = .next (((s.setReg rd v).setZ z).setC c)) :
    ∃ t, exec i s = .next t ∧ t.reg rd = v ∧ t.z = z ∧ t.c = c ∧ (∀ r, r ≠ rd → t.reg r = s.reg r) ∧
      t = { s with regs := t.regs, z := t.z, c := t.c } :=
  ⟨_, h, s.reg_setReg_same rd v, rfl, rfl, fun r => s.reg_setReg_ne rd r v, rfl⟩

/-- What an instruction does whose whole effect is a write of the pair and the flags `Z` and `C`. -/
theorem exec_of_setPair_setZ_setC {v w : Byte} {z c : Bool}
    (h : exec i s = .next ((((s.setReg pairFirst v).setReg pairSecond w).setZ z).setC c)) :
    ∃ t, exec i s = .next t ∧ t.reg .r0 = v ∧ t.reg .r1 = w ∧ t.z = z ∧ t.c = c ∧
      (∀ r, r ≠ .r0 → r ≠ .r1 → t.reg r = s.reg r) ∧ t = { s with regs := t.regs, z := t.z, c := t.c } :=
  ⟨_, h, rfl, rfl, rfl, rfl, fun _ h0 h1 => s.reg_setPair_of_notMem v w (by simp [pairFirst, pairSecond, h0, h1]),
    rfl⟩

end

theorem execDiv_of_eq_zero {rd rs : Reg} {s : State} (h : s.reg rs = 0) :
    execDiv rd rs s = .next (s.setC true) := if_pos h

theorem execDiv_of_ne_zero {rd rs : Reg} {s : State} (h : s.reg rs ≠ 0) :
    execDiv rd rs s =
      .next ((((s.setReg pairFirst (quotient (s.reg rd) (s.reg rs))).setReg pairSecond
        (remainder (s.reg rd) (s.reg rs))).setZ (zeroFlag (quotient (s.reg rd) (s.reg rs)))).setC false) :=
  if_neg h

/-! ### The four instructions -/

/-- Settles O30: the effect is one register write and the two flags; the numbers are those of `addValue` and
`addCarry`. -/
theorem addRule : Obligations.AddRule := by
  refine ⟨encodes_opLo fun _ => rfl, fun rd rs s => ?_⟩
  obtain ⟨t, ht, hv, hz, hc, hothers, hframe⟩ := exec_of_setReg_setZ_setC (exec_add s rd rs)
  refine ⟨t, ht, ?sum, ?zero, ?carry, hothers, hframe⟩
  case sum => rw [hv, toNat_addValue]
  case zero => rw [hz, zeroFlag_iff, toNat_addValue]
  case carry => rw [hc, addCarry_iff]

/-- Settles O31: as for ADD, with the numbers of the exact difference. -/
theorem subRule : Obligations.SubRule := by
  refine ⟨encodes_opLo fun _ => rfl, fun rd rs s => ?_⟩
  obtain ⟨t, ht, hv, hz, hc, hothers, hframe⟩ := exec_of_setReg_setZ_setC (exec_sub s rd rs)
  refine ⟨t, ht, ?difference, ?zero, ?borrow, hothers, hframe⟩
  case difference => rw [hv, toNat_subValue]
  case zero => rw [hz, subZero_iff]
  case borrow => rw [hc, subBorrow_iff]

/-- Settles O32: the effect is a write of the pair and the two flags; the product of the old values fits in the
pair's 16 bits. -/
theorem mulRule : Obligations.MulRule := by
  refine ⟨encodes_opLo fun _ => rfl, fun rd rs s => ?_⟩
  obtain ⟨t, ht, hhigh, hlow, hz, hc, hothers, hframe⟩ := exec_of_setPair_setZ_setC (exec_mul s rd rs)
  refine ⟨t, ht, ?high, ?low, ?zero, hc, hothers, hframe⟩
  case high => rw [hhigh, toNat_productHigh]
  case low => rw [hlow, toNat_productLow]
  case zero => rw [hz, productZero_iff]

/-- Settles O33: by whether the divisor is 0; where it is not, the pair holds quotient and remainder, which obey
the division law (R165). -/
theorem divRule : Obligations.DivRule := by
  refine ⟨encodes_opLo fun _ => rfl, fun rd rs s => ?_⟩
  have hiff : s.reg rs = 0 ↔ (s.reg rs).toNat = 0 := BitVec.toNat_eq
  by_cases hm : s.reg rs = 0
  · exact ⟨_, execDiv_of_eq_zero hm, fun _ => rfl, fun hne => absurd (hiff.mp hm) hne⟩
  · obtain ⟨t, ht, hq, hr, hz, hc, hothers, hframe⟩ :=
      exec_of_setPair_setZ_setC ((exec_div s rd rs).trans (execDiv_of_ne_zero hm))
    refine ⟨t, ht, fun h0 => absurd (hiff.mpr h0) hm, fun hpos =>
      ⟨?quotient, ?law, ?bound, ?zero, hc, hothers, hframe⟩⟩
    case quotient => rw [hq, toNat_quotient]
    case law => rw [hq, hr, toNat_quotient, toNat_remainder, Nat.div_add_mod]
    case bound => rw [hr, toNat_remainder]; exact Nat.mod_lt _ (Nat.pos_of_ne_zero hpos)
    case zero => rw [hz, hq, zeroFlag_iff]

end Sys2Proof.Machine
end

section
/-! The bitwise and unary group (42_logic.md R170 to R180). -/

namespace Sys2Proof.Machine

/-! ### AND, OR, XOR, NOT: a result bit by bit, `C` kept (decision D20) -/

/-- `255 - x` (R173) is the one's complement. -/
theorem notValue_eq (x : Byte) : notValue x = ~~~x := by
  apply BitVec.eq_of_toNat_eq
  rw [notValue, BitVec.toNat_ofNat, BitVec.toNat_not]
  omega

theorem getLsbD_notValue (x : Byte) {k : Nat} (hk : k < 8) : (notValue x).getLsbD k = !x.getLsbD k := by
  rw [notValue_eq, BitVec.getLsbD_not, decide_eq_true hk, Bool.true_and]

/-- What an instruction does whose whole effect is one register write and `Z` from it. -/
theorem exec_of_writeZ {i : Instr} {s : State} {rd : Reg} {v y : Byte} {f : Bool → Bool → Bool}
    (h : exec i s = .next (writeZ rd v s))
    (hbits : ∀ k, k < 8 → v.getLsbD k = f ((s.reg rd).getLsbD k) (y.getLsbD k)) :
    ∃ t, exec i s = .next t ∧ BitwiseResult f y rd s t := by
  have hreg : (writeZ rd v s).reg rd = v := s.reg_setReg_same rd v
  refine ⟨_, h, ?bits, ?zero, fun r => s.reg_setReg_ne rd r v, rfl⟩
  case bits => rwa [hreg]
  case zero => rw [hreg]; exact zeroFlag_iff v

/-- Settles O34: `op` with `b` or with `lo` selects a form; each form is one register write, and its bits are those
of the bit-vector operation. -/
theorem logicRule : Obligations.LogicRule := by
  refine ⟨encodes_opLo fun _ => rfl, encodes_opLo fun _ => rfl, encodes_opLo fun _ => rfl,
    encodes_opLo fun _ => rfl, encodes_opB fun _ => rfl, encodes_opB fun _ => rfl, encodes_opB fun _ => rfl,
    fun rd rs s => ?andRR, fun rd rs s => ?orRR, fun rd rs s => ?xorRR, fun rd s => ?not,
    fun rd imm s => ?andRI, fun rd imm s => ?orRI, fun rd imm s => ?xorRI⟩
  case andRR => exact exec_of_writeZ (exec_andRR s rd rs) fun _ _ => BitVec.getLsbD_and
  case orRR => exact exec_of_writeZ (exec_orRR s rd rs) fun _ _ => BitVec.getLsbD_or
  case xorRR => exact exec_of_writeZ (exec_xorRR s rd rs) fun _ _ => BitVec.getLsbD_xor
  case not => exact exec_of_writeZ (exec_not s rd) fun _ => getLsbD_notValue (s.reg rd)
  case andRI => exact exec_of_writeZ (exec_andRI s rd imm) fun _ _ => BitVec.getLsbD_and
  case orRI => exact exec_of_writeZ (exec_orRI s rd imm) fun _ _ => BitVec.getLsbD_or
  case xorRI => exact exec_of_writeZ (exec_xorRI s rd imm) fun _ _ => BitVec.getLsbD_xor

/-! ### SHL, SHR, ROL, ROR: the results as numbers (one position, decision D21) -/

section
variable (v : Byte)

theorem getLsbD_eq_true_iff (k : Nat) : v.getLsbD k = true ↔ v.toNat / 2 ^ k % 2 = 1 := by
  rw [BitVec.getLsbD, Nat.testBit_eq_decide_div_mod_eq, decide_eq_true_iff]

theorem bitValue_eq (k : Nat) : bitValue v k = v.toNat / 2 ^ k % 2 := by
  simp only [bitValue, getLsbD_eq_true_iff]
  split <;> omega

theorem bitValue_seven : bitValue v 7 = v.toNat / 128 := by
  rw [bitValue_eq]
  omega

theorem bitValue_zero : bitValue v 0 = v.toNat % 2 := by
  rw [bitValue_eq, Nat.pow_zero, Nat.div_one]

theorem outLeft_iff : outLeft v = true ↔ 128 ≤ v.toNat := by
  rw [outLeft, getLsbD_eq_true_iff]
  omega

theorem outRight_iff : outRight v = true ↔ v.toNat % 2 = 1 := by
  rw [outRight, getLsbD_eq_true_iff, Nat.pow_zero, Nat.div_one]

theorem toNat_shlValue : (shlValue v).toNat = v.toNat * 2 % 256 := BitVec.toNat_ofNat _ _

theorem toNat_shrValue : (shrValue v).toNat = v.toNat / 2 :=
  (BitVec.toNat_ofNat _ _).trans (Nat.mod_eq_of_lt ((Nat.div_le_self _ _).trans_lt v.isLt))

/-- Doubling leaves bit 0 free, so the bit that comes in there does not carry. -/
theorem toNat_rolValue : (rolValue v).toNat = v.toNat * 2 % 256 + v.toNat / 128 := by
  rw [rolValue, BitVec.toNat_ofNat, bitValue_seven]
  omega

/-- Halving leaves bit 7 free, so the bit that comes in there does not carry. -/
theorem toNat_rorValue : (rorValue v).toNat = v.toNat / 2 + 128 * (v.toNat % 2) := by
  rw [rorValue, BitVec.toNat_ofNat, bitValue_zero]
  omega

end

/-- What an instruction does whose whole effect is one register write, `Z` from it and the given `C`. -/
theorem exec_of_writeZC {i : Instr} {s : State} {rd : Reg} {v : Byte} {c : Bool} {value : Nat} {out : Prop}
    (h : exec i s = .next (writeZC rd v c s)) (hvalue : v.toNat = value) (hout : c = true ↔ out) :
    ∃ t, exec i s = .next t ∧ ShiftResult value out rd s t := by
  obtain ⟨t, ht, hv, hz, hc, hothers, hframe⟩ := exec_of_setReg_setZ_setC h
  refine ⟨t, ht, ?value, ?carry, ?zero, hothers, hframe⟩
  case value => rw [hv, hvalue]
  case carry => rw [hc, hout]
  case zero => rw [hz, zeroFlag_iff, hvalue]

/-- Settles O35: `op` with `lo` selects a form; each form is one register write and the two flags, with the numbers
of its value and of the bit shifted out. -/
theorem shiftAndRotateRule : Obligations.ShiftAndRotateRule := by
  refine ⟨encodes_opLo fun _ => rfl, encodes_opLo fun _ => rfl, encodes_opLo fun _ => rfl,
    encodes_opLo fun _ => rfl, fun rd s => ⟨?shl, ?shr, ?rol, ?ror⟩⟩
  case shl => exact exec_of_writeZC (exec_shl s rd) (toNat_shlValue _) (outLeft_iff _)
  case shr => exact exec_of_writeZC (exec_shr s rd) (toNat_shrValue _) (outRight_iff _)
  case rol => exact exec_of_writeZC (exec_rol s rd) (toNat_rolValue _) (outLeft_iff _)
  case ror => exact exec_of_writeZC (exec_ror s rd) (toNat_rorValue _) (outRight_iff _)

end Sys2Proof.Machine
end

section
/-! Memory load and store (43_loadstore.md R190 to R194). -/

namespace Sys2Proof.Machine

/-- What an instruction does whose whole effect is one data read into a register: the read itself keeps all but `BP`
and the clock count, the register write all but `Rd`. -/
theorem exec_of_memRead {i : Instr} {s : State} {a : Byte} {rd : Reg}
    (h : exec i s = .next ((memRead a s).2.setReg rd (memRead a s).1)) :
    ∃ t, exec i s = .next t ∧ LoadEffect a rd s t := by
  refine ⟨_, h, State.reg_setReg_same _ _ _, fun r hr => ?others, memRead_bp s a, rfl, ?frame⟩
  case others => rw [State.reg_setReg_ne _ _ _ _ hr, State.reg_memRead]
  case frame =>
    obtain ⟨k, _, _, hread⟩ := memRead_state s a
    rw [hread]
    rfl

/-- What an instruction does whose whole effect is one data write. -/
theorem exec_of_memWrite {i : Instr} {s : State} {a v : Byte} (h : exec i s = .next (memWrite a v s)) :
    ∃ t, exec i s = .next t ∧ StoreEffect a v s t :=
  ⟨_, h, storeEffect_memWrite s a v⟩

/-- Settles O36: `op` with `b` selects a form; each form is one data read into `Rd`, at the register's byte or at the
word's. -/
theorem loadRule : Obligations.LoadRule := by
  refine ⟨encodes_opB fun _ => rfl, encodes_opB fun _ => rfl, fun rd ra s => ?ldInd, fun rd addr s => ?ldAbs⟩
  case ldInd => exact exec_of_memRead (exec_ldInd s rd ra)
  case ldAbs => exact exec_of_memRead (exec_ldAbs s rd addr)

/-- Settles O37: `op` with `b` selects a form; each form is one data write of `Rd`, at the register's byte or at the
word's. -/
theorem storeRule : Obligations.StoreRule := by
  refine ⟨encodes_opB fun _ => rfl, encodes_opB fun _ => rfl, fun rd ra s => ?stInd, fun rd addr s => ?stAbs,
    fun _ _ => rfl, fun _ => rfl, fun _ _ => rfl⟩
  case stInd => exact exec_of_memWrite (exec_stInd s rd ra)
  case stAbs => exact exec_of_memWrite (exec_stAbs s rd addr)

end Sys2Proof.Machine
end

section
/-! Compare (44_compare.md R200, R201). -/

namespace Sys2Proof.Machine

/-- `Z` of a compare as R200 states it, on the exact difference; `subZero_iff` is R161's form, modulo 256. -/
theorem subZero_iff_difference (x y : Byte) : subZero x y = true ↔ (x.toNat - y.toNat : Int) = 0 :=
  decide_eq_true_iff

/-- What an instruction does whose whole effect is the flags of a compare. -/
theorem exec_of_compareFlags {i : Instr} {s : State} {x y : Byte} (h : exec i s = .next (compareFlags x y s)) :
    ∃ t, exec i s = .next t ∧ (t.z = true ↔ (x.toNat - y.toNat : Int) = 0) ∧
      (t.c = true ↔ (x.toNat - y.toNat : Int) < 0) ∧ t = { s with z := t.z, c := t.c } :=
  ⟨_, h, subZero_iff_difference x y, subBorrow_iff x y, rfl⟩

/-- Settles O38: `op` alone selects either form, and each form only sets the flags, from `Rd` and the register's byte
or the word's. -/
theorem compareRule : Obligations.CompareRule := by
  refine ⟨encodes_op fun _ => rfl, encodes_op fun _ => rfl, fun rd rs s => ?cmpRR, fun rd imm s => ?cmpRI⟩
  case cmpRR => exact exec_of_compareFlags (exec_cmpRR s rd rs)
  case cmpRI => exact exec_of_compareFlags (exec_cmpRI s rd imm)

end Sys2Proof.Machine
end

section
/-! Jumps (45_jumps.md R210 to R213). -/

namespace Sys2Proof.Machine

/-- A conditional jump is a choice between two states; R211 to R213 state it as a choice of `pc` alone. -/
theorem setPc_ite (s : State) (addr : Byte) (taken : Prop) [Decidable taken] :
    (if taken then s.setPc addr else s) = { s with pc := if taken then addr else s.pc } := by
  by_cases h : taken
  · simp only [if_pos h, State.setPc]
  · simp only [if_neg h]

/-- What an instruction does whose whole effect is a jump under a condition. -/
theorem exec_of_setPc_ite {i : Instr} {s : State} {addr : Byte} {taken : Prop} [Decidable taken]
    (h : exec i s = .next (if taken then s.setPc addr else s)) :
    exec i s = .next { s with pc := if taken then addr else s.pc } := by
  rw [h, setPc_ite]

/-- `execJnz` has its jump in the branch where `Z` is not 1; this is the same choice by `Z` being 0, as R212 has it. -/
theorem exec_jnz_eq_ite (s : State) (addr : Byte) :
    exec (.jnz addr) s = .next (if s.z = false then s.setPc addr else s) := by
  rw [exec_jnz, execJnz]
  cases s.z with
  | false => rfl
  | true => rfl

/-- Settles O39: `op` selects JMP and JC, `op` with `c` selects JZ and JNZ; JMP is one write of `pc`, and each of the
others the same write under its flag. -/
theorem jumpRule : Obligations.JumpRule := by
  refine ⟨encodes_op fun _ => rfl, encodes_opC (by decide) fun _ => rfl, encodes_opC (by decide) fun _ => rfl,
    encodes_op fun _ => rfl, fun addr s => ⟨?jmp, ?jz, ?jnz, ?jc⟩⟩
  case jmp => exact exec_jmp s addr
  case jz => exact exec_of_setPc_ite (exec_jz s addr)
  case jnz => exact exec_of_setPc_ite (exec_jnz_eq_ite s addr)
  case jc => exact exec_of_setPc_ite (exec_jc s addr)

end Sys2Proof.Machine
end

section
/-! Call, return and the stack (46_call_stack.md R220 to R227). -/

namespace Sys2Proof.Machine

/-! ### A sequence of pushes: the byte number `i` goes to `sp - i` -/

/-- The address `sp - i` as the number the rules give (R226). -/
theorem toNat_sub_ofNat (x : Byte) {i : Nat} (h : i ≤ 256) :
    (x - .ofNat 8 i).toNat = (x.toNat + (256 - i)) % 256 := by
  bv_omega

section
variable (vs : List Byte) (s : State)

theorem pushAll_state :
    pushAll vs s = { s with stack := (pushAll vs s).stack, sp := s.sp - .ofNat 8 vs.length } := by
  induction vs generalizing s with
  | nil => simp [pushAll]
  | cons v vs ih =>
    have hsp : s.sp - 1 - .ofNat 8 vs.length = s.sp - .ofNat 8 (vs.length + 1) := by bv_omega
    rw [pushAll, ih, List.length_cons, ← hsp]
    rfl

theorem sp_pushAll : (pushAll vs s).sp = s.sp - .ofNat 8 vs.length := by
  rw [pushAll_state]

theorem read_pushAll_of_ne {a : Nat} (h : ∀ i < vs.length, a ≠ (s.sp - .ofNat 8 i).toNat) :
    (pushAll vs s).stack.read a = s.stack.read a := by
  induction vs generalizing s with
  | nil => rfl
  | cons v vs ih =>
    have hfirst : a ≠ s.sp.toNat := by simpa using h 0 (Nat.zero_lt_succ _)
    have hrest : ∀ i < vs.length, a ≠ ((push v s).sp - .ofNat 8 i).toNat := fun i hi => by
      have hnext : (push v s).sp - .ofNat 8 i = s.sp - .ofNat 8 (i + 1) := by rw [push_eq]; bv_omega
      rw [hnext]
      exact h (i + 1) (Nat.succ_lt_succ hi)
    rw [pushAll, ih _ hrest, push_eq]
    exact Memory.read_write_ne _ _ _ _ hfirst

/-- No byte of a sequence that fits in `STACK` is overwritten by a later one (R225: N up to 256). -/
theorem read_pushAll (hlen : vs.length ≤ 256) {i : Nat} (hi : i < vs.length) :
    (pushAll vs s).stack.read (s.sp - .ofNat 8 i).toNat = vs[i] := by
  induction vs generalizing s i with
  | nil => exact absurd hi (Nat.not_lt_zero i)
  | cons v vs ih =>
    rw [List.length_cons] at hlen hi
    cases i with
    | zero =>
      have hlater : ∀ j < vs.length, (s.sp - .ofNat 8 0).toNat ≠ ((push v s).sp - .ofNat 8 j).toNat :=
        fun j hj => by rw [push_eq]; bv_omega
      rw [pushAll, read_pushAll_of_ne vs _ hlater, push_eq, BitVec.sub_zero]
      exact Memory.read_write_same _ _ _
    | succ i =>
      have hnext : s.sp - .ofNat 8 (i + 1) = (push v s).sp - .ofNat 8 i := by rw [push_eq]; bv_omega
      rw [pushAll, hnext]
      exact ih (push v s) (by omega) (by omega)

end

/-! ### A sequence of pops: the byte number `i` comes from `sp + (i + 1)` -/

theorem popMany_eq (n : Nat) (s : State) :
    popMany n s = ((List.range n).map fun i => s.stack.read (s.sp + .ofNat 8 (i + 1)).toNat,
      { s with sp := s.sp + .ofNat 8 n }) := by
  induction n generalizing s with
  | zero => simp [popMany]
  | succ n ih =>
    have hsp (k : Nat) : s.sp + 1 + .ofNat 8 k = s.sp + .ofNat 8 (k + 1) := by bv_omega
    simp only [popMany, ih, pop_eq, hsp, List.range_succ_eq_map, List.map_cons, List.map_map]
    rfl

/-- Settles O27: the pop number `i` takes the slot of the push number `N - 1 - i`. -/
theorem stackDiscipline : Obligations.StackDiscipline := by
  intro vs s hlen
  rw [popMany_eq, sp_pushAll]
  refine ⟨List.ext_getElem (by simp) fun i hi _ => ?value, ?state⟩
  case value =>
    have hi : i < vs.length := by simpa using hi
    have hslot : s.sp - .ofNat 8 vs.length + .ofNat 8 (i + 1) = s.sp - .ofNat 8 (vs.length - 1 - i) := by bv_omega
    rw [List.getElem_map, List.getElem_range, hslot, read_pushAll vs s hlen, List.getElem_reverse]
  case state => rw [BitVec.sub_add_cancel, pushAll_state]

/-! ### The instructions -/

/-- Settles O40: `op` with `c` selects CALL; its effect is one push and one write of `pc`. -/
theorem callRule : Obligations.CallRule := by
  refine ⟨encodes_opC (by decide) fun _ => rfl, fun addr s => ?_⟩
  obtain ⟨⟨hread, hothers, hsp, _⟩, _⟩ := pushAndPopPrimitives s.pc s
  exact ⟨_, exec_call s addr, hread, hothers, hsp, rfl, rfl⟩

/-- Settles O41: `op` with `c`, or with `lo`, selects RET; both meanings are `popPc`. -/
theorem returnRule : Obligations.ReturnRule := by
  refine ⟨encodes_opC (by decide) fun _ => rfl, encodes_opLo fun _ => rfl, fun s => ?_⟩
  obtain ⟨_, hvalue, hsp, _⟩ := pushAndPopPrimitives 0 s
  exact ⟨popPc s, exec_ret s, exec_retSys s, hsp, hvalue, rfl⟩

/-- Settles O42: `op` with `lo` selects either form; PUSH is one push, POP one pop and one register write. -/
theorem pushPopRule : Obligations.PushPopRule := by
  refine ⟨encodes_opLo fun _ => rfl, encodes_opLo fun _ => rfl, fun rd s => ?push, fun rd s => ?pop⟩
  case push =>
    obtain ⟨⟨hread, hothers, hsp, hframe⟩, _⟩ := pushAndPopPrimitives (s.reg rd) s
    exact ⟨_, exec_push s rd, hread, hothers, hsp, hframe⟩
  case pop =>
    obtain ⟨_, hvalue, hsp, _⟩ := pushAndPopPrimitives 0 s
    exact ⟨_, exec_pop s rd, (State.reg_setReg_same _ _ _).trans hvalue,
      fun r => State.reg_setReg_ne _ rd r _, hsp, rfl⟩

/-- PUSHA as one sequence of pushes (R226). -/
theorem exec_pusha_eq_pushAll (s : State) :
    exec .pusha s = .next (pushAll [s.reg .r0, s.reg .r1, s.reg .r2, s.reg .r3] s) := rfl

/-- Everything POPA does (R227). -/
theorem exec_popa_eq (s : State) :
    exec .popa s = .next
      { s with
        regs :=
          { r0 := s.stack.read ((s.sp.toNat + 4) % 256)
            r1 := s.stack.read ((s.sp.toNat + 3) % 256)
            r2 := s.stack.read ((s.sp.toNat + 2) % 256)
            r3 := s.stack.read ((s.sp.toNat + 1) % 256) }
        sp := s.sp + 4 } := by
  have h2 : s.sp + 1 + 1 = s.sp + 2 := BitVec.add_assoc _ _ _
  have h3 : s.sp + 2 + 1 = s.sp + 3 := BitVec.add_assoc _ _ _
  have h4 : s.sp + 3 + 1 = s.sp + 4 := BitVec.add_assoc _ _ _
  simp only [exec_popa, execPopa, popReg, pop_eq, State.setReg, h2, h3, h4]
  rfl

/-- Settles O43: `op` with `lo` selects either form; PUSHA has the slots of a sequence of four pushes, POPA is four
pops, each into its register. -/
theorem pushAllPopAllRule : Obligations.PushAllPopAllRule := by
  refine ⟨encodes_opLo fun _ => rfl, encodes_opLo fun _ => rfl, fun s => ?pusha, fun s => ?popa⟩
  case pusha =>
    have hslot0 : (s.sp - .ofNat 8 0).toNat = s.sp.toNat := by rw [BitVec.sub_zero]
    have hslot (i : Nat) (hi : i ≤ 256) : (s.sp - .ofNat 8 i).toNat = (s.sp.toNat + (256 - i)) % 256 :=
      toNat_sub_ofNat s.sp hi
    have hread (i : Nat) (hi : i < 4) := read_pushAll [s.reg .r0, s.reg .r1, s.reg .r2, s.reg .r3] s (by simp) hi
    refine ⟨_, exec_pusha_eq_pushAll s, ?r0, ?r1, ?r2, ?r3, fun a h0 h1 h2 h3 => ?others, ?sp, ?frame⟩
    case r0 => exact hslot0 ▸ hread 0 (by decide)
    case r1 => exact hslot 1 (by decide) ▸ hread 1 (by decide)
    case r2 => exact hslot 2 (by decide) ▸ hread 2 (by decide)
    case r3 => exact hslot 3 (by decide) ▸ hread 3 (by decide)
    case others =>
      refine read_pushAll_of_ne _ s fun i hi => ?_
      have hi : i < 4 := hi
      rw [hslot i (by omega)]
      omega
    case sp => rw [sp_pushAll]; exact hslot 4 (by decide)
    case frame => rfl
  case popa =>
    exact ⟨_, exec_popa_eq s, rfl, rfl, rfl, rfl, BitVec.toNat_add _ _, rfl⟩

/-- Settles O44: the pops of POPA read the four slots that PUSHA wrote, in whatever registers they end. -/
theorem popAllUndoesPushAll : Obligations.PopAllUndoesPushAll := by
  intro s g
  obtain ⟨_, _, hpusha, hpopa⟩ := pushAllPopAllRule
  obtain ⟨t, ht, ht0, ht1, ht2, ht3, _, htsp, htframe⟩ := hpusha s
  obtain ⟨u, hu, hu3, hu2, hu1, hu0, husp, huframe⟩ := hpopa { t with regs := g }
  have hback : (t.sp.toNat + 4) % 256 = s.sp.toNat := by omega
  have hslot (k : Nat) : (t.sp.toNat + k) % 256 = (s.sp.toNat + (252 + k)) % 256 := by omega
  have hregs : u.regs = s.regs := by
    refine Regs.ext_get _ _ fun r => ?_
    cases r with
    | r0 => exact hu0.trans ((congrArg t.stack.read hback).trans ht0)
    | r1 => exact hu1.trans ((congrArg t.stack.read (hslot 3)).trans ht1)
    | r2 => exact hu2.trans ((congrArg t.stack.read (hslot 2)).trans ht2)
    | r3 => exact hu3.trans ((congrArg t.stack.read (hslot 1)).trans ht3)
  have hsp : u.sp = s.sp := BitVec.eq_of_toNat_eq (husp.trans hback)
  exact ⟨t, u, ht, hu, by rw [huframe, hregs, hsp, htframe]⟩

end Sys2Proof.Machine
end

section
/-! Increment and decrement (47_incdec.md R240, R241). -/

namespace Sys2Proof.Machine

theorem toNat_incValue (x : Byte) : (incValue x).toNat = (x.toNat + 1) % 256 := BitVec.toNat_ofNat _ _

theorem toNat_decValue (x : Byte) : ((decValue x).toNat : Int) = (x.toNat - 1 : Int) % 256 := by
  rw [decValue, BitVec.toNat_ofInt]
  omega

/-- The register side of `writeZ`; `exec_of_writeZ` states it bit by bit, for the logic group. -/
theorem exec_of_writeZ_value {i : Instr} {s : State} {rd : Reg} {v : Byte} (h : exec i s = .next (writeZ rd v s)) :
    ∃ t, exec i s = .next t ∧ t.reg rd = v ∧ (t.z = true ↔ v.toNat = 0) ∧ (∀ r, r ≠ rd → t.reg r = s.reg r) ∧
      t = { s with regs := t.regs, z := t.z } :=
  ⟨_, h, s.reg_setReg_same rd v, zeroFlag_iff v, fun r => s.reg_setReg_ne rd r v, rfl⟩

/-- Settles O45: `op` with `c` selects either form; each form is one register write and `Z` from it, with the numbers
of `incValue` and `decValue`. -/
theorem incDecRule : Obligations.IncDecRule := by
  refine ⟨encodes_opC (by decide) fun _ => rfl, encodes_opC (by decide) fun _ => rfl, fun rd s => ?inc,
    fun rd s => ?dec⟩
  case inc =>
    obtain ⟨t, ht, hv, hz, hothers, hframe⟩ := exec_of_writeZ_value (exec_inc s rd)
    refine ⟨t, ht, ?value, ?zero, hothers, hframe⟩
    case value => rw [hv, toNat_incValue]
    case zero => rw [hz, toNat_incValue]
  case dec =>
    obtain ⟨t, ht, hv, hz, hothers, hframe⟩ := exec_of_writeZ_value (exec_dec s rd)
    refine ⟨t, ht, ?value, ?zero, hothers, hframe⟩
    case value => rw [hv, toNat_decValue]
    case zero => rw [hz, ← toNat_decValue, Int.natCast_eq_zero]

end Sys2Proof.Machine
end

section
/-! Every instruction, step and command completes (60_exceptions.md R300). -/

namespace Sys2Proof.Machine

variable (s : State)

theorem exec_completes (i : Instr) : ∃ t, exec i s = .next t := by
  cases i with
  | div rd rs =>
    by_cases hzero : s.reg rs = 0
    · exact ⟨_, execDiv_of_eq_zero hzero⟩
    · exact ⟨_, execDiv_of_ne_zero hzero⟩
  | _ => exact ⟨_, rfl⟩

theorem step_completes : ∃ t, step s = .next t := by
  rcases step_cases s with ⟨_, hstep⟩ | ⟨_, i, _, hstep⟩ | ⟨_, _, _, hstep⟩
  · exact ⟨s, hstep⟩
  · rw [hstep]
    exact exec_completes (advancePc s) i
  · exact ⟨advancePc s, hstep⟩

theorem runCommand_completes (k : Command) : ∃ t, runCommand k s = .next t := by
  cases k with
  | step => exact step_completes s
  | loadProgram | reset | setInput => exact ⟨_, rfl⟩

/-! ### Sequences of commands -/

theorem runCommands_cons {k : Command} {s u : State} (ks : List Command) (h : runCommand k s = .next u) :
    runCommands (k :: ks) s = runCommands ks u := by
  rw [runCommands, h]

theorem runCommands_append {ks : List Command} {s u : State} (ls : List Command) (h : runCommands ks s = .next u) :
    runCommands (ks ++ ls) s = runCommands ls u := by
  induction ks generalizing s with
  | nil =>
    obtain rfl := Host.Outcome.next.inj h
    rfl
  | cons k ks ih =>
    obtain ⟨v, hv⟩ := runCommand_completes s k
    rw [runCommands_cons ks hv] at h
    rw [List.cons_append, runCommands_cons _ hv, ih h]

/-- Settles O9: by induction on the commands, each of which completes. -/
theorem everyCommandSequenceCompletes : Obligations.EveryCommandSequenceCompletes := by
  intro ks
  induction ks with
  | nil => exact fun s => ⟨s, rfl⟩
  | cons k ks ih =>
    intro s
    obtain ⟨u, hu⟩ := runCommand_completes s k
    rw [runCommands_cons ks hu]
    exact ih u

/-- What steps and inputs keep, every sequence of them keeps, though a load or a reset may not. -/
theorem runCommands_invariant_of_keepsRunning {P : State → Prop} (hstep : ∀ {s t}, P s → step s = .next t → P t)
    (hinput : ∀ {s} (index : Int) (pressed : Bool), P s → P (setInput index pressed s)) {ks : List Command}
    (hks : ks.all Command.keepsRunning = true) {s t : State} (hs : P s) (h : runCommands ks s = .next t) : P t := by
  induction ks generalizing s with
  | nil =>
    obtain rfl := Host.Outcome.next.inj h
    exact hs
  | cons k ks ih =>
    obtain ⟨hk, hks⟩ : k.keepsRunning = true ∧ ks.all Command.keepsRunning = true := by simpa using hks
    obtain ⟨u, hu⟩ := runCommand_completes s k
    rw [runCommands_cons ks hu] at h
    refine ih hks ?_ h
    cases k with
    | step => exact hstep hs hu
    | setInput index pressed =>
      obtain rfl := Host.Outcome.next.inj hu
      exact hinput index pressed hs
    | loadProgram | reset => exact absurd hk Bool.false_ne_true

theorem setInput_eq (index : Int) (pressed : Bool) :
    setInput index pressed s = { s with btn := (setInput index pressed s).btn } := by
  unfold setInput
  split <;> rfl

/-- Settles O11: "as it was but for `BTN`" holds along the run, since it keeps the machine halted, where a step changes
nothing. -/
theorem haltedMachineStaysPut : Obligations.HaltedMachineStaysPut := by
  intro ks s t hhalt hks h
  refine runCommands_invariant_of_keepsRunning (P := fun u => u = { s with btn := u.btn })
    (fun {u v} hu hv => ?step) (fun {u} index pressed hu => ?input) hks rfl h
  case step =>
    have hhalted : u.halt = true := by rw [hu, hhalt]
    obtain rfl := Host.Outcome.next.inj ((haltedStepChangesNothing u hhalted).symm.trans hv)
    exact hu
  case input =>
    rw [setInput_eq, hu]

end Sys2Proof.Machine
end

section
/-! Bank select (48_bank.md R250). -/

namespace Sys2Proof

theorem toNat_fieldBank (w : Word) : (fieldBank w).toNat = w.toNat % 4 := by
  simp only [fieldBank, loPair, fieldLo, BitVec.extractLsb'_toNat, Nat.shiftRight_zero]
  omega

section
variable {i : Instr}

theorem Instr.writesBp_of_accessesData (hdata : i.accessesData = false) (hbank : ∀ j, i ≠ .bank j) :
    i.writesBp = false := by
  cases i with
  | bank k => exact absurd rfl (hbank k)
  | _ => exact hdata

/-- A store is a data access (20_memory.md R95). -/
theorem Instr.storesData_of_accessesData (hdata : i.accessesData = false) : i.storesData = false := by
  cases i with
  | ldInd | ldAbs => rfl
  | _ => exact hdata

end

end Sys2Proof

namespace Sys2Proof.Machine

/-- Settles O46: `op` alone selects BANK, whose effect is one write of `BP`. -/
theorem bankRule : Obligations.BankRule :=
  ⟨fun w hw => ⟨fieldBank w, toNat_fieldBank w, encodes_op (build := fun w => .bank (fieldBank w)) (fun _ => rfl) w hw⟩,
    fun k s => exec_bank s k⟩

/-- LD at a plain address. -/
theorem exec_ldAbs_memory (s : State) (rd : Reg) (addr : Byte) (h : addr.toNat < 0xF0 ∨ 0xFC < addr.toNat) :
    exec (.ldAbs rd addr) s = .next ((s.setBp 0).setReg rd (s.mem.read (256 * s.bp.toNat + addr.toNat))) := by
  rw [exec_ldAbs, execLdAbs, eaAbsolute, memRead_memory s addr ((windowOf_memory addr).mpr h)]
  rfl

/-- Settles O47: the instruction between keeps `BP` and `MEM`, so the first load is of bank `k`; it clears `BP`, so the
second is of bank 0. -/
theorem bankPrefixIsOneShot : Obligations.BankPrefixIsOneShot := by
  intro k i rd rq a b s hdata hbank ha hb
  obtain ⟨t', ht'⟩ := exec_completes (s.setBp k) i
  obtain ⟨_, _, hstores, _⟩ := memoriesReachedByInstructions i (s.setBp k) t' ht'
  have hbp : t'.bp = k := exec_keeps_bp ht' (Instr.writesBp_of_accessesData hdata hbank)
  have hmem : t'.mem = s.mem := (hstores (Instr.storesData_of_accessesData hdata)).1
  refine ⟨_, t', _, _, exec_bank s k, ht', exec_ldAbs_memory t' rd a ha, exec_ldAbs_memory _ rq b hb, ?first, ?second,
    rfl⟩
  case first => rw [State.reg_setReg_same, hbp, hmem]
  case second => rw [State.reg_setReg_same]; simp [hmem]

end Sys2Proof.Machine
end

section
/-! The system group (49_system.md). -/

namespace Sys2Proof.Machine

/-- Settles O48: `op` with `lo` selects either form; a halted step is O7. -/
theorem nopAndHltRule : Obligations.NopAndHltRule :=
  ⟨encodes_opLo fun _ => rfl, encodes_opLo fun _ => rfl,
    fun s => ⟨exec_nop s, exec_hlt s, haltedStepChangesNothing _ rfl⟩⟩

/-- Settles O49: `op` with `lo` selects a form; each form is one write of a whole video memory. -/
theorem flipAndClearRule : Obligations.FlipAndClearRule :=
  ⟨encodes_opLo fun _ => rfl, encodes_opLo fun _ => rfl, encodes_opLo fun _ => rfl,
    fun s => ⟨_, exec_flip s, fun _ _ => rfl, rfl⟩,
    fun s => ⟨_, exec_clrf s, fun a _ => Memory.read_nil a, rfl⟩,
    fun s => ⟨_, exec_clrv s, fun a _ => Memory.read_nil a, rfl⟩⟩

/-- Settles O54: `op` with `lo` selects either form; VPEEK is one register write, VPOKE one write of `VRAM`. -/
theorem peekPokeRule : Obligations.PeekPokeRule := by
  refine ⟨encodes_opLo fun _ => rfl, encodes_opLo fun _ => rfl, fun s => ?vpeek, fun s => ?vpoke⟩
  case vpeek => exact exec_of_setReg (exec_vpeek s)
  case vpoke =>
    exact ⟨_, exec_vpoke s, Memory.read_write_same _ _ _, fun a ha => Memory.read_write_ne _ _ _ _ ha, rfl⟩

/-! ### Pixels (10_state.md R47, decision D25) -/

/-- The pixel of an even (high nibble) or odd (low nibble) column in the byte that holds it. -/
def pixelOf (v : Byte) (x : Nat) : BitVec 4 :=
  if x % 2 = 0 then .ofNat 4 (v.toNat / 16) else .ofNat 4 v.toNat

theorem Memory.pixel_eq (m : Memory) (x y : Nat) : m.pixel x y = pixelOf (m.read (pixelOffset x y)) x := rfl

/-- A merge replaces the nibble of its own column's parity and keeps the other one. -/
theorem pixelOf_mergePixel (old : Byte) (x x' : Nat) (col : BitVec 4) :
    pixelOf (mergePixel old x col) x' = if x' % 2 = x % 2 then col else pixelOf old x' := by
  have := old.isLt
  have := col.isLt
  apply BitVec.eq_of_toNat_eq
  unfold pixelOf mergePixel
  split_ifs <;> simp only [BitVec.toNat_ofNat] <;> omega

theorem pixelOffset_inj {x y x' y' : Nat} (hx : x ≤ 15) (hx' : x' ≤ 15) :
    pixelOffset x' y' = pixelOffset x y ↔ x' / 2 = x / 2 ∧ y' = y := by
  unfold pixelOffset
  omega

/-- Plotting in range, pixel by pixel. -/
theorem pixel_plot (m : Memory) {x y : Byte} (col : BitVec 4) (h : x.toNat ≤ 15 ∧ y.toNat ≤ 15) {x' : Nat}
    (hx' : x' ≤ 15) (y' : Nat) :
    (plot m x y col).pixel x' y' = if x' = x.toNat ∧ y' = y.toNat then col else m.pixel x' y' := by
  have hinj := pixelOffset_inj (y := y.toNat) (y' := y') h.1 hx'
  rw [Memory.pixel_eq, Memory.pixel_eq, read_plot]
  by_cases hbyte : pixelOffset x' y' = pixelOffset x.toNat y.toNat
  · have hparity : x' % 2 = x.toNat % 2 ↔ x' = x.toNat ∧ y' = y.toNat := by omega
    rw [if_pos ⟨h, hbyte⟩, pixelOf_mergePixel]
    simp only [hparity]
  · rw [if_neg fun hall => hbyte hall.2, if_neg fun hsame => hbyte (hinj.mpr (by omega))]

theorem plotColour_eq (s : State) : plotColour s = (s.reg .r2).setWidth 4 := by
  rw [plotColour, BitVec.setWidth_eq_extractLsb' (by decide)]

theorem plotEffect_plot (m : Memory) (s : State) :
    PlotEffect m (plot m (plotX s) (plotY s) (plotColour s)) s := by
  refine ⟨fun hrange => ⟨fun x y hx _ => ?pixel, fun a ha => ?others⟩, fun hout => ?out⟩
  case pixel =>
    rw [plotColour_eq]
    exact pixel_plot m _ hrange hx y
  case others => rw [read_plot, if_neg fun hall => ha hall.2]
  case out => exact if_neg (by simpa [plotX, plotY, imp_iff_not_or] using hout)

/-- Settles O50: `op` with `lo` selects either form; each form plots on its own memory. -/
theorem plotRule : Obligations.PlotRule :=
  ⟨encodes_opLo fun _ => rfl, encodes_opLo fun _ => rfl,
    fun s => ⟨_, exec_plotf s, plotEffect_plot s.fb s, rfl⟩,
    fun s => ⟨_, exec_plotv s, plotEffect_plot s.vram s, rfl⟩⟩

end Sys2Proof.Machine
end

section
/-! Block copy (49_system.md R267, decision D26). -/

namespace Sys2Proof.Machine

section
variable (n : Nat) (src dst : Byte) (s : State)

/-- The loop as R267 writes it: the address of byte `i` is the start plus `i`. -/
theorem copyBytes_eq_foldl :
    copyBytes n src dst s = (List.range n).foldl
      (fun u i => memWrite (.ofNat 8 (dst.toNat + i))
        (memRead (.ofNat 8 (src.toNat + i)) u).1 (memRead (.ofNat 8 (src.toNat + i)) u).2) s := by
  have haddr (x : Byte) (i : Nat) : x + .ofNat 8 i = .ofNat 8 (x.toNat + i) := by
    rw [BitVec.ofNat_add, BitVec.ofNat_toNat, BitVec.setWidth_eq]
  induction n with
  | zero => rfl
  | succ n ih => rw [copyBytes_succ_last, haddr, haddr, List.range_succ, List.foldl_append, ← ih]; rfl

end

/-- Settles O51: `op` with `lo` selects BCPY, whose effect is the loop of `copyBytes`. -/
theorem bcpyIsTheByteLoop : Obligations.BcpyIsTheByteLoop := by
  refine ⟨encodes_opLo fun _ => rfl, fun s => ⟨_, exec_bcpy s, copyBytes_eq_foldl _ _ _ s, ?_⟩⟩
  obtain ⟨b, m, d, k, hcopy⟩ := copyBytes_state (copyCount s) (copySource s) (copyDest s) s
  rw [hcopy]

/-! ### Copies between plain addresses, below the I/O range -/

section
variable {n : Nat} {src dst : Byte} (s : State)

/-- The index in `MEM` of byte `i` of the source: the first read takes the pending bank, the others bank 0
(R267 (c)). -/
def sourceIndex (src : Byte) (s : State) (i : Nat) : Nat :=
  if i = 0 then 256 * s.bp.toNat + src.toNat else src.toNat + i

theorem memIndex_bp_copyBytes (hsrc : src.toNat + n < 0xF0) :
    memIndex (copyBytes n src dst s).bp (src + .ofNat 8 n) = sourceIndex src s n := by
  have haddr : (src + .ofNat 8 n).toNat = src.toNat + n := by bv_omega
  rw [memIndex, haddr, copyBytes_bp, sourceIndex]
  split
  · next h => rw [h, Nat.add_zero]
  · simp

/-- One byte more of a plain copy is one read and one write of `MEM`. -/
theorem copyBytes_succ_plain (hsrc : src.toNat + n < 0xF0) (hdst : dst.toNat + n < 0xF0) :
    copyBytes (n + 1) src dst s =
      { copyBytes n src dst s with
        bp := 0
        mem := (copyBytes n src dst s).mem.write (dst.toNat + n)
          ((copyBytes n src dst s).mem.read (sourceIndex src s n)) } := by
  have hread : windowOf config (src + .ofNat 8 n) = .memory := (windowOf_memory _).mpr (by bv_omega)
  have hwrite : windowOf config (dst + .ofNat 8 n) = .memory := (windowOf_memory _).mpr (by bv_omega)
  have hindex : memIndex 0 (dst + .ofNat 8 n) = dst.toNat + n := by
    have hbank : (0 : BankNo).toNat = 0 := rfl
    rw [memIndex, hbank]
    bv_omega
  rw [copyBytes_succ_last, memRead_memory _ _ hread, memWrite_memory _ _ _ hwrite, memIndex_bp_copyBytes s hsrc]
  simp only [State.setBp_bp, State.setBp_mem, hindex]
  rfl

theorem copyBytes_plain_frame (hsrc : src.toNat + n ≤ 0xF0) (hdst : dst.toNat + n ≤ 0xF0) :
    copyBytes n src dst s =
      { s with bp := if n = 0 then s.bp else 0, mem := (copyBytes n src dst s).mem } := by
  induction n with
  | zero => rfl
  | succ n ih =>
    rw [copyBytes_succ_plain s hsrc hdst, ih (by omega) (by omega)]
    rfl

/-- A plain copy writes the destination block and nothing else, also where the blocks overlap. -/
theorem read_copyBytes_of_outside (hsrc : src.toNat + n ≤ 0xF0) (hdst : dst.toNat + n ≤ 0xF0) {a : Nat}
    (ha : a < dst.toNat ∨ dst.toNat + n ≤ a) : (copyBytes n src dst s).mem.read a = s.mem.read a := by
  induction n with
  | zero => rfl
  | succ n ih =>
    rw [copyBytes_succ_plain s hsrc hdst, Memory.read_write_ne _ _ _ _ (by omega), ih (by omega) (by omega) (by omega)]

/-- No byte of a source block apart from the destination is overwritten before it is read. -/
theorem read_copyBytes_of_disjoint (hsrc : src.toNat + n ≤ 0xF0) (hdst : dst.toNat + n ≤ 0xF0)
    (hapart : src.toNat + n ≤ dst.toNat ∨ dst.toNat + n ≤ src.toNat) {i : Nat} (hi : i < n) :
    (copyBytes n src dst s).mem.read (dst.toNat + i) = s.mem.read (sourceIndex src s i) := by
  induction n with
  | zero => exact absurd hi (Nat.not_lt_zero i)
  | succ n ih =>
    rw [copyBytes_succ_plain s hsrc hdst]
    by_cases hlast : i = n
    · subst hlast
      rw [Memory.read_write_same]
      by_cases hfirst : i = 0
      · rw [hfirst, copyBytes]
      · rw [sourceIndex, if_neg hfirst]
        exact read_copyBytes_of_outside s (by omega) (by omega) (by omega)
    · rw [Memory.read_write_ne _ _ _ _ (by omega)]
      exact ih (by omega) (by omega) (by omega) (by omega)

/-- One above the source, every read takes the byte that the write before it left (R267 (e)). -/
theorem read_copyBytes_of_succ (hdst : dst.toNat = src.toNat + 1) (hend : dst.toNat + n ≤ 0xF0) (hbp : s.bp = 0)
    {i : Nat} (hi : i ≤ n) : (copyBytes n src dst s).mem.read (src.toNat + i) = s.mem.read src.toNat := by
  induction n generalizing i with
  | zero => rw [Nat.le_zero.mp hi]; rfl
  | succ n ih =>
    have hsource : sourceIndex src s n = src.toNat + n := by
      rw [sourceIndex, hbp]
      split
      · next h => simp [h]
      · rfl
    rw [copyBytes_succ_plain s (by omega) hend, hsource, ih (by omega) le_rfl]
    by_cases hlast : i = n + 1
    · rw [show src.toNat + i = dst.toNat + n by omega, Memory.read_write_same]
    · rw [Memory.read_write_ne _ _ _ _ (by omega), ih (by omega) (by omega)]

end

/-- Settles O52: the three clauses are those of a plain copy; only the first needs the blocks apart. -/
theorem bcpyCopiesPlainMemory : Obligations.BcpyCopiesPlainMemory :=
  fun s hsrc hdst hapart => ⟨_, exec_bcpy s, fun _ => read_copyBytes_of_disjoint s hsrc hdst hapart,
    fun _ => read_copyBytes_of_outside s hsrc hdst, copyBytes_plain_frame s hsrc hdst⟩

/-- Settles O53: a plain copy to one above its source. -/
theorem bcpyReplicatesOverlap : Obligations.BcpyReplicatesOverlap :=
  fun s hdst hend hbp => ⟨_, exec_bcpy s, fun _ => read_copyBytes_of_succ s hdst hend hbp⟩

end Sys2Proof.Machine
end

section
/-! The host's commands (60_exceptions.md R321; 70_reset_and_hazards.md R340 to R342). -/

namespace Sys2Proof.Machine

/-! ### The buttons -/

/-- The mask of `setBit` is bit `i` alone. -/
theorem getLsbD_one_shiftLeft (i : Nat) {j : Nat} (hj : j < 8) : (1#8 <<< i).getLsbD j = decide (j = i) := by
  rw [← BitVec.twoPow_eq, BitVec.getLsbD_twoPow]
  by_cases h : j = i
  · simp [← h, hj]
  · simp [h, Ne.symm h]

theorem getLsbD_setBit (v : Byte) (i : Nat) (b : Bool) {j : Nat} (hj : j < 8) :
    (setBit v i b).getLsbD j = if j = i then b else v.getLsbD j := by
  unfold setBit
  cases b with
  | false =>
    rw [if_neg Bool.false_ne_true, BitVec.getLsbD_and, BitVec.getLsbD_not, getLsbD_one_shiftLeft i hj]
    by_cases h : j = i <;> simp [h, hj]
  | true =>
    rw [if_pos rfl, BitVec.getLsbD_or, getLsbD_one_shiftLeft i hj]
    by_cases h : j = i <;> simp [h]

/-- Settles O58: by whether the index names a button; one that does changes its own bit alone. -/
theorem setInputRule : Obligations.SetInputRule := by
  intro k p s
  refine ⟨_, rfl, fun hk j hj => ?inside, fun hk => ?outside, setInput_eq s k p⟩
  case inside =>
    have hindex : (j : Int) = k ↔ j = k.toNat := by omega
    rw [setInput, if_pos hk, getLsbD_setBit _ _ _ hj]
    simp only [hindex]
  case outside => exact if_neg (by omega)

/-! ### Loading and resetting -/

/-- Main memory after a load, byte by byte (decision D34: at most 254 bytes). -/
theorem read_imageOf (bytes : List Byte) (a : Nat) :
    (imageOf bytes).read a = if a < min bytes.length 254 then bytes.getD a 0 else 0 := by
  have hprogMax : config.progMax = 254 := rfl
  rw [imageOf, Memory.read_load, List.length_take, hprogMax]
  simp only [Nat.zero_le, true_and, Nat.zero_add, Nat.sub_zero, Nat.min_comm 254]
  split
  · next ha =>
    have htake : a < 254 := by omega
    simp only [List.getD_eq_getElem?_getD, List.getElem?_take, if_pos htake]
  · rfl

/-- Settles O55: every part by its literal, `MEM` by `read_imageOf`. -/
theorem loadProgramRule : Obligations.LoadProgramRule := by
  intro bytes s
  refine ⟨_, rfl, fun r => ?regs, rfl, rfl, rfl, rfl, rfl, rfl, rfl, rfl, read_imageOf bytes, rfl,
    fun _ => ⟨rfl, rfl, rfl, rfl⟩⟩
  case regs => cases r <;> rfl

/-- Settles O56: the four memories of R341 are named by the frame, every other part is a literal or kept. -/
theorem warmResetRule : Obligations.WarmResetRule := fun _ => ⟨_, rfl, rfl⟩

theorem step_image {s t : State} (h : step s = .next t) : t.image = s.image := by
  rcases step_cases s with ⟨_, hstep⟩ | ⟨_, i, _, hstep⟩ | ⟨_, _, _, hstep⟩
  · obtain rfl := Host.Outcome.next.inj (hstep.symm.trans h)
    rfl
  · exact (memoriesReachedByInstructions i _ t (hstep.symm.trans h)).1
  · obtain rfl := Host.Outcome.next.inj (hstep.symm.trans h)
    rfl

/-- Settles O57: the run between keeps `IMAGE`, which the reset copies to `MEM`. -/
theorem resetRestoresLoadedProgram : Obligations.ResetRestoresLoadedProgram := by
  intro bytes ks s t hks h
  obtain ⟨u, hu⟩ := everyCommandSequenceCompletes ks (loadProgram bytes s)
  have himage : u.image = imageOf bytes :=
    runCommands_invariant_of_keepsRunning (P := fun v => v.image = imageOf bytes)
      (fun hv hstep => (step_image hstep).trans hv)
      (fun {v} index pressed hv => (congrArg State.image (setInput_eq v index pressed)).trans hv) hks rfl hu
  rw [runCommands_cons (u := loadProgram bytes s) _ rfl, runCommands_append _ hu] at h
  obtain rfl : warmReset u = t := Host.Outcome.next.inj h
  refine ⟨fun a => ?mem, rfl, rfl, rfl⟩
  case mem => rw [← read_imageOf, ← himage]; rfl

/-- Settles O59: every part by its literal; the two bytes fetched are 0, which is NOP. -/
theorem powerOnIsTheEmptyLoad : Obligations.PowerOnIsTheEmptyLoad :=
  ⟨rfl, rfl, rfl, rfl, fun _ => ⟨rfl, rfl, rfl, rfl, rfl, rfl⟩, step_instr State.reset .nop rfl rfl⟩

end Sys2Proof.Machine
end

section
/-! The words of the spec's examples (95_test_vectors.md). -/

namespace Sys2Proof

/-- Settles O1: the decoder computes on each pair of bytes. -/
theorem sampleWordsDecode : Obligations.SampleWordsDecode :=
  ⟨rfl, rfl, rfl, rfl, rfl, rfl, rfl, rfl, rfl, rfl, rfl, rfl, rfl, rfl, rfl, rfl⟩

end Sys2Proof
end
